-- ==== Sys2Proof/Word.lean ====
section
/-! DEFINITION. The 32-bit word, the only unit in which host and block exchange values (R7, R45). -/

namespace Sys2Proof

/-- A word: what one host access carries, one limb of a big value, one command word (R7, R60). -/
abbrev Word := BitVec 32

end Sys2Proof
end

