-- ==== Sys2Proof/Config.lean ====
section
/-! DEFINITION. What is fixed for one machine (the parameters of R6 and R36) and the free values of the spec. -/

namespace Sys2Proof.Config

/-- The parameters of R6. Every value of this type is a legal instance and every legal instance is a value of it, so an illegal
one (U20) does not exist in the model: `L` is `topLimb + 1`, 1 to 1024; `DEFAULT_ROUNDS` has 16 bits; `BASE` is
`0x8000 * baseIndex`. DESIGN CHOICE, safe: log 1. -/
structure Params where
  topLimb       : Fin 1024
  defaultRounds : BitVec 16
  baseIndex     : Nat
  deriving DecidableEq, Repr

/-- `L`, the number of limbs of an operand register (R6, R23). -/
def Params.limbs (p : Params) : Nat := p.topLimb.val + 1

/-- `NBITS = 32 * L` (R6, R23). -/
def Params.nbits (p : Params) : Nat := 32 * p.limbs

/-- `BASE`, a multiple of 0x8000 (R6, R40). -/
def Params.base (p : Params) : Nat := 0x8000 * p.baseIndex

/-- The defaults of R6: NBITS = 2048, so L = 64, and DEFAULT_ROUNDS = 20. R6 leaves BASE OPEN; it stands at 0 here
(DESIGN CHOICE, unsafe: log 2; no rule depends on it, D7). -/
def Params.default : Params := { topLimb := 63, defaultRounds := 20, baseIndex := 0 }

/-- Free value: the quotient of a division by zero, as a function of the dividend. The spec never asks for it and does not
define it (R85, U5). Nothing can be proved about its value. Log 11. -/
opaque quotientByZero : Nat → Nat

/-- Free value: the remainder of a division by zero, as a function of the dividend (R85, U5). Log 11. -/
opaque remainderByZero : Nat → Nat

/-- Free value: `emod` by zero, as a function of the signed dividend (R85, U5). Log 11. -/
opaque emodByZero : Int → Nat

/-- Free value: what an unsigned register would hold if a negative difference `a - b` were stored in it. R77 says that such
a difference is never formed. DESIGN CHOICE, safe: log 12. -/
opaque negativeDifference : Nat → Nat → Nat

end Sys2Proof.Config
end

