-- ==== Sys2Proof/Syntax.lean ====
section
/-! DEFINITION. The commands of the block, one constructor per row of spec/opcode_table.json (R2, R62). -/

namespace Sys2Proof

/-- The three commands (R62). None has an operand field: each uses fixed registers (R61, R65, R17). -/
inductive Instr where
  /-- `R <- A^E mod M` (R95). -/
  | modexp
  /-- `R <- A^(-1) mod M` (R110). -/
  | modinv
  /-- `PRIME <- is M probably prime` (R125). -/
  | mrtest
  deriving DecidableEq, Repr

end Sys2Proof
end

