-- ==== Sys2Proof/WellFormed.lean ====
section
/-! DEFINITION. What is well formed: a command, a set of raw parameters, a host access. -/

namespace Sys2Proof

/-- Every command is well formed: a command carries no operand, no immediate and no mode (R61, R65), so no term of `Instr` is
ill formed. What can be ill formed is a raw word (Decode), raw parameters and a host access (below). -/
def Instr.wf : Instr → Bool
  | .modexp => true
  | .modinv => true
  | .mrtest => true

/-- The legal instances of R6: NBITS a multiple of 32 from 32 to 32768, DEFAULT_ROUNDS 0 to 65535, BASE a multiple of 0x8000.
Anything else is refused: it is no instance of the model (U20). -/
def Config.Params.ofRaw (nbits defaultRounds base : Nat) : Option Config.Params :=
  if h : nbits % 32 = 0 ∧ 32 ≤ nbits ∧ nbits ≤ 32768 ∧ defaultRounds < 65536 ∧ base % 0x8000 = 0 then
    some { topLimb := ⟨nbits / 32 - 1, by omega⟩
           defaultRounds := BitVec.ofNat 16 defaultRounds
           baseIndex := base / 0x8000 }
  else none

/-- A host access exists when it is one 32-bit word, at an offset that is a multiple of 4, inside the block's 0x8000 bytes
(R40, R45, U6). -/
def accessWf (p : Config.Params) (addr size : Nat) : Bool :=
  size == 4 && decide (p.base ≤ addr) && decide (addr < p.base + 0x8000) && decide ((addr - p.base) % 4 = 0)

end Sys2Proof
end

