-- ==== Sys2Proof/Decode.lean ====
section
/-! DEFINITION. Decoding and encoding of the command word (R60 to R64), total on every word, rejecting by name. -/

namespace Sys2Proof

/-- Why a word is no command (R63, R64). Both make the word illegal; neither makes it a hint or a no-op. -/
inductive DecodeReject where
  /-- `RSV`, bits 31:4, is not 0 (R63). -/
  | reservedBitsSet
  /-- `RSV` is 0 and `OP` is 0x0 or 0x4 to 0xF (R62, R64). -/
  | unassignedOpcode
  deriving DecidableEq, Repr

/-- What decoding a word gives. -/
inductive Decoded where
  | command (i : Instr)
  | illegal (why : DecodeReject)
  deriving DecidableEq, Repr

/-- Field `OP`, bits 3:0 (R61). -/
def opField (w : Word) : BitVec 4 := w.extractLsb' 0 4

/-- Field `RSV`, bits 31:4 (R61). -/
def rsvField (w : Word) : BitVec 28 := w.extractLsb' 4 28

/-- The decoder (R61 to R64). -/
def decode (w : Word) : Decoded :=
  if rsvField w ≠ 0 then .illegal .reservedBitsSet
  else match (opField w).toNat with
    | 1 => .command .modexp
    | 2 => .command .modinv
    | 3 => .command .mrtest
    | _ => .illegal .unassignedOpcode

/-- The opcode of each command (R62). -/
def opcode : Instr → BitVec 4
  | .modexp => 0x1
  | .modinv => 0x2
  | .mrtest => 0x3

/-- The encoder: `RSV = 0` above `OP` (R61, R63). -/
def encode (i : Instr) : Word := 0#28 ++ opcode i

/-- Column `match` of R62. -/
def matchWord : Instr → Word
  | .modexp => 0x00000001
  | .modinv => 0x00000002
  | .mrtest => 0x00000003

/-- Column `mask` of R62. -/
def maskWord : Instr → Word
  | .modexp => 0xFFFFFFFF
  | .modinv => 0xFFFFFFFF
  | .mrtest => 0xFFFFFFFF

/-- The command decoded from `nbits` bits `w`, numbered as spec/opcode_table.json numbers them: a command is the one 32-bit word
written to `CMD` (R60), with the bits above `nbits` zero. The order of bytes within that word is not defined by the block and
cannot be observed through it (R42), so none is chosen: log 13. -/
def decodeTableWord (nbits w : Nat) : Option Instr :=
  match decode (BitVec.ofNat 32 (w % 2 ^ nbits)) with
  | .command i => some i
  | .illegal _ => none

end Sys2Proof
end

