-- ==== Sys2Proof/Machine/State.lean ====
section
/-! DEFINITION. The state of the block (R11), the turns of the total order (R51), the outcomes other than a next state, and
the state after reset (R35). -/

namespace Sys2Proof.Machine

/-- `SEQ`, the sequencer state (R24). -/
inductive SeqState where
  | idle
  | meLoop
  | miLoop
  | mrClassify
  | mrDecomp
  | mrRound
  | mrDraw
  | mrCheck
  | mrSquare
  deriving DecidableEq, Repr

/-- `CALLER`: for whom the modular exponent engine runs (R24, R29). -/
inductive Caller where
  | host
  | mrt
  deriving DecidableEq, Repr

/-- Working registers of the modular exponent engine (R29). -/
structure Mee where
  mod    : Nat
  acc    : Nat
  expr   : Nat
  res    : Nat
  caller : Caller
  deriving DecidableEq, Repr

/-- Working registers of the modular inverse unit (R30); the coefficients are signed integers (R31). -/
structure Miu where
  r0 : Nat
  r1 : Nat
  s0 : Int
  s1 : Int
  t0 : Int
  t1 : Int
  mn : Nat
  deriving DecidableEq, Repr

/-- Working registers of the Miller-Rabin tester (R32). -/
structure Mrt where
  nc      : Nat
  d       : Nat
  scnt    : Nat
  rndleft : BitVec 16
  basev   : Nat
  x       : Nat
  sqleft  : Nat
  deriving DecidableEq, Repr

/-- One turn in the single sequence of host accesses, sequencer steps, answers of the random source and resets (R10, R51).
An access names an absolute address and a size in bytes, so that an access the block does not define can be written down and is
refused (R45). -/
inductive Event where
  /-- `MemWrite(addr, size, w)` (R44). -/
  | write (addr size : Nat) (w : Word)
  /-- `MemRead(addr, size)` (R43). -/
  | read (addr size : Nat)
  /-- The random source answers with `v` (R167). -/
  | answer (v : Nat)
  /-- The reset input is asserted and released (R180). -/
  | reset
  /-- The sequencer takes one step, if one is enabled (R25). -/
  | seqStep
  deriving DecidableEq, Repr

/-- The complete state of the block (R11), and three fields of the model's own: `params` (R36's parameters of the step relation,
never changed by a step: log 1), `agenda` (the turns still to be taken, first first: log 3) and `readWords` (the words the host's
reads have returned, newest first: log 10). A big value is a natural number below `2^NBITS` (R7, R12); that bound is the invariant
`Safety.OperandsBounded`. The three fields are a DESIGN CHOICE, safe. -/
structure State where
  params    : Config.Params
  a         : Nat
  e         : Nat
  m         : Nat
  r         : Nat
  cmdreg    : Word
  rounds    : BitVec 16
  done      : Bool
  prime     : Bool
  err       : BitVec 8
  seq       : SeqState
  mee       : Mee
  miu       : Miu
  mrt       : Mrt
  agenda    : List Event
  readWords : List Word
  deriving DecidableEq, Repr

/-- Why the machine stops with a fault: never. The block has no traps (R150), every failure of a command is an error completion
after which the block accepts the next command at once (R158, R160), and a register access raises nothing (R157). DEDUCED, safe: log 16. -/
inductive Fault where
  deriving DecidableEq, Repr

/-- Why the model gives a turn no meaning. -/
inductive Refusal where
  /-- A command without a meaning yet; raised by an arm of `exec` only. Safe. -/
  | notModelled (mnemonic : String)
  /-- A host access that is not one aligned 32-bit word, raised by `memRead` and `memWrite` (R45, U6: "refuse"). Safe. -/
  | notAnAlignedWord (addr size : Nat)
  /-- A host access outside the block's 0x8000 bytes, raised by `memRead` and `memWrite` (R40, U6: "refuse"). Safe. -/
  | outsideBlock (addr : Nat)
  /-- An answer of the random source outside `[2, NC - 2]` while a request is outstanding, raised by `rngAnswer`
  (R130, R168, U7: "refuse"). Safe. -/
  | drawOutOfRange (v : Nat)
  deriving DecidableEq, Repr

/-- The outcome of a step of this machine. -/
abbrev Outcome := Host.Outcome State Fault Refusal

/-- The table of R35 for a machine with the parameters `p`, with nothing on the agenda and nothing read. -/
def State.resetOf (p : Config.Params) : State where
  params := p
  a := 0
  e := 0
  m := 0
  r := 0
  cmdreg := 0
  rounds := p.defaultRounds
  done := false
  prime := false
  err := 0
  seq := .idle
  mee := { mod := 0, acc := 0, expr := 0, res := 0, caller := .host }
  miu := { r0 := 0, r1 := 0, s0 := 0, s1 := 0, t0 := 0, t1 := 0, mn := 0 }
  mrt := { nc := 0, d := 0, scnt := 0, rndleft := 0, basev := 0, x := 0, sqleft := 0 }
  agenda := []
  readWords := []

/-- The machine right after reset, with the default parameters of R6. -/
def State.reset : State := State.resetOf Config.Params.default

end Sys2Proof.Machine
end

