-- ==== Sys2Proof/Machine/Substrate.lean ====
section
/-! DEFINITION. The big-integer substrate: the exact operations the three units ask for (R75 to R88). What the spec never asks
(a zero divisor R85, a negative difference for an unsigned register R77) is a free value of Config. -/

namespace Sys2Proof.Machine.Substrate

/-- `a div b` (R79). -/
def div (a b : Nat) : Nat := if b = 0 then Config.quotientByZero a else a / b

/-- `a mod b` (R79). -/
def mod (a b : Nat) : Nat := if b = 0 then Config.remainderByZero a else a % b

/-- `a emod b`: the one `r` in `[0, b)` with `b` dividing `a - r` (R80). -/
def emod (a : Int) (b : Nat) : Nat := if b = 0 then Config.emodByZero a else (Int.emod a (Int.ofNat b)).toNat

/-- `(a * b) mod m` (R81). -/
def mulmod (a b m : Nat) : Nat := mod (a * b) m

/-- `a - b` where the result goes to an unsigned register (R77). -/
def sub (a b : Nat) : Nat := if b ≤ a then a - b else Config.negativeDifference a b

/-- `s - q * t` with `s`, `t` signed (R82, R76 to R78). -/
def submul (s : Int) (q : Nat) (t : Int) : Int := s - Int.ofNat q * t

/-- `a >> 1`, `a div 2` (R83). -/
def shr1 (a : Nat) : Nat := a / 2

/-- `a[0]`, `a mod 2` (R83). -/
def bit0 (a : Nat) : Nat := a % 2

/-- `even(a)` (R83). -/
def even (a : Nat) : Bool := bit0 a == 0

/-- `odd(a)` (R83). -/
def odd (a : Nat) : Bool := bit0 a == 1

/-- `bitlen(v)`: 0 for 0, else the least `k` with `v < 2^k` (R7). -/
def bitlen (v : Nat) : Nat := if v = 0 then 0 else Nat.log2 v + 1

/-- `popcount(v)`: the number of 1 bits of `v` (R7). -/
def popcount (v : Nat) : Nat := (List.range (bitlen v)).countP fun i => v.testBit i

end Sys2Proof.Machine.Substrate
end

