-- ==== Sys2Proof/Machine/Operands.lean ====
section
/-! DEFINITION. Big values and their limbs, the four operand registers as banks of limbs, and where the register map puts them
(R7, R12 to R17, R41, R42). -/

namespace Sys2Proof.Machine

/-- `limb(v, i) = v[32*i+31 : 32*i]` (R7, R42). -/
def limb (v i : Nat) : Word := BitVec.ofNat 32 (v / 2 ^ (32 * i))

/-- `X.limb[i] <- w`: limb `i` is replaced, every other limb keeps its value (R44). -/
def setLimb (v i : Nat) (w : Word) : Nat := v - (limb v i).toNat * 2 ^ (32 * i) + w.toNat * 2 ^ (32 * i)

/-- The sum of R42 and R65: the big value whose limbs, least significant first, are `ws`. -/
def fromLimbs : List Word → Nat
  | [] => 0
  | w :: ws => w.toNat + 2 ^ 32 * fromLimbs ws

/-- The four operand registers (R12). -/
inductive Bank where
  | a
  | e
  | m
  | r
  deriving DecidableEq, Repr

/-- The offset of a bank's limb 0 (R41). -/
def bankOffset : Bank → Nat
  | .a => 0x1000
  | .e => 0x2000
  | .m => 0x3000
  | .r => 0x4000

/-- The value an operand register holds. -/
def bankValue (b : Bank) (s : State) : Nat :=
  match b with
  | .a => s.a
  | .e => s.e
  | .m => s.m
  | .r => s.r

/-- What an offset of the block's 0x8000 bytes names (R41). -/
inductive Reg where
  | cmd
  | status
  | err
  | rounds
  | cap
  | limb (b : Bank) (i : Nat)
  | reserved
  deriving DecidableEq, Repr

/-- The register map (R41), line by line, for an offset that is a multiple of 4; `limbs` is `L`. What no line names is reserved:
0x0014 to 0x0FFC, the limb offsets from `L` to 1023 of every bank, 0x5000 to 0x7FFC (R46). -/
def regAt (limbs off : Nat) : Reg :=
  if off = 0x0000 then .cmd
  else if off = 0x0004 then .status
  else if off = 0x0008 then .err
  else if off = 0x000C then .rounds
  else if off = 0x0010 then .cap
  else if 0x1000 ≤ off ∧ off < 0x1000 + 4 * limbs then .limb .a ((off - 0x1000) / 4)
  else if 0x2000 ≤ off ∧ off < 0x2000 + 4 * limbs then .limb .e ((off - 0x2000) / 4)
  else if 0x3000 ≤ off ∧ off < 0x3000 + 4 * limbs then .limb .m ((off - 0x3000) / 4)
  else if 0x4000 ≤ off ∧ off < 0x4000 + 4 * limbs then .limb .r ((off - 0x4000) / 4)
  else .reserved

end Sys2Proof.Machine
end

