-- ==== Sys2Proof/Machine/Flags.lean ====
section
/-! DEFINITION. The flags, the error codes and the STATUS word (R20, R21, R26, R27, R151). -/

namespace Sys2Proof.Machine

/-- The error kinds of R151. The block raises three of them; codes 3 and 4 are kept for host software (R154, R155). -/
inductive ErrorKind where
  | invalidModulus
  | noModularInverse
  | messageOutOfRange
  | primalitySamplingExhausted
  | illegalCommand
  deriving DecidableEq, Repr

/-- The code of an error kind, the value of `ERR` bits 7:0 (R151). -/
def errorCode : ErrorKind → BitVec 8
  | .invalidModulus => 1
  | .noModularInverse => 2
  | .messageOutOfRange => 3
  | .primalitySamplingExhausted => 4
  | .illegalCommand => 5

/-- `BUSY`: `SEQ ≠ IDLE`, a view (R20, R27). -/
def busy (s : State) : Bool := s.seq != .idle

/-- `ERRF`: `ERR ≠ 0`, a view (R20, R27). -/
def errf (s : State) : Bool := s.err != 0

/-- The word read at `STATUS`: BUSY, DONE, ERRF, PRIME in bits 0 to 3, the rest 0 (R20). -/
def statusWord (s : State) : Word :=
  BitVec.ofNat 32 ((busy s).toNat + 2 * s.done.toNat + 4 * (errf s).toNat + 8 * s.prime.toNat)

/-- The flag and status writes every accept makes, for a legal word and an illegal one (R66). -/
def acceptCommon (w : Word) (s : State) : State := { s with cmdreg := w, done := false, err := 0, prime := false }

end Sys2Proof.Machine
end

