-- ==== Sys2Proof/Machine/Ops.lean ====
section
/-! DEFINITION. The named operations over the block's registers: the register read and write (R43, R44), the accept of a command
(R66, R67), the completions (R158, R161), the outstanding draw (R167) and reset (R181). -/

namespace Sys2Proof.Machine

/-- The word a host read of a register returns (R43). -/
def regRead (g : Reg) (s : State) : Word :=
  match g with
  | .cmd => s.cmdreg
  | .status => statusWord s
  | .err => s.err.setWidth 32
  | .rounds => s.rounds.setWidth 32
  | .cap => BitVec.ofNat 32 s.params.limbs
  | .limb b i => limb (bankValue b s) i
  | .reserved => 0

/-- What a host write does to every register but `CMD`, whose write is `writeCommand` (R44): ROUNDS takes bits 15:0 (R22), a limb
of `A`, `E` or `M` is replaced, anything else is ignored (R46, R47). -/
def regWrite (g : Reg) (w : Word) (s : State) : State :=
  match g with
  | .rounds => { s with rounds := w.setWidth 16 }
  | .limb .a i => { s with a := setLimb s.a i w }
  | .limb .e i => { s with e := setLimb s.e i w }
  | .limb .m i => { s with m := setLimb s.m i w }
  | .limb .r _ => s
  | .cmd => s
  | .status => s
  | .err => s
  | .cap => s
  | .reserved => s

/-- `raise k`: the error completion, and nothing else (R150, R158). -/
def raiseError (k : ErrorKind) (s : State) : State := { s with err := errorCode k, done := true, seq := .idle }

/-- The success completion that writes `R`, all bits in one step (R16, R161). -/
def completeWithResult (v : Nat) (s : State) : State := { s with r := v, done := true, seq := .idle }

/-- The completion of MRTEST, which writes `PRIME` (R134, R161). -/
def completeWithPrime (b : Bool) (s : State) : State := { s with prime := b, done := true, seq := .idle }

/-- A command word written to `CMD`: accepted while the sequencer is idle, that is the common writes and then the command's own
accept, in one step (R66); dropped without a trace while it is not (R67). -/
def acceptWord (w : Word) (own : State → State) (s : State) : State :=
  if s.seq = .idle then own (acceptCommon w s) else s

/-- A word that is no command: accepted and completed in the same step with `IllegalCommand` (R64, R156), dropped while busy. -/
def acceptIllegal (w : Word) (s : State) : State := acceptWord w (raiseError .illegalCommand) s

/-- The draw request `RngDraw(lo, hi)`: outstanding exactly while `SEQ = MR_DRAW`, with the bounds 2 and `NC - 2` (R129, R167). -/
def rngRequest (s : State) : Option (Nat × Nat) :=
  if s.seq = .mrDraw then some (2, Substrate.sub s.mrt.nc 2) else none

/-- The effect of reset: every piece of state takes its value of R35 (R181), whatever the block was doing (R182). The machine's
parameters, the turns still to come and what the host has read are not state of the block and stay. -/
def resetBlock (s : State) : State :=
  { State.resetOf s.params with agenda := s.agenda, readWords := s.readWords }

/-- The offset of a host access from `BASE`, for an access the block defines: one 32-bit word, inside the block, at a multiple of
4 (R40, R45). Any other is refused (U6). -/
def busOffset (p : Config.Params) (addr size : Nat) : Except Refusal Nat :=
  if size ≠ 4 then .error (.notAnAlignedWord addr size)
  else if addr < p.base ∨ p.base + 0x8000 ≤ addr then .error (.outsideBlock addr)
  else if (addr - p.base) % 4 ≠ 0 then .error (.notAnAlignedWord addr size)
  else .ok (addr - p.base)

end Sys2Proof.Machine
end

