-- ==== Sys2Proof/Machine/Miu.lean ====
section
/-! DEFINITION. MODINV and the modular inverse unit (R110 to R123). -/

namespace Sys2Proof.Machine

/-- Start of the unit on `(a, n)`, in that order (R112). -/
def miuStart (a n : Nat) (s : State) : State :=
  { s with miu := { r0 := a, r1 := n, s0 := 1, s1 := 0, t0 := 0, t1 := 1, mn := n }, seq := .miLoop }

/-- The accept of MODINV after the common writes: `InvalidModulus` when `M = 0` (R111), else the start (R112). -/
def modinvAccept (s : State) : State :=
  if s.m = 0 then raiseError .invalidModulus s else miuStart s.a s.m s

/-- MODINV: its word written to `CMD` (R66, R67, R111, R112). The unit's steps follow by themselves. -/
def execModinv (s : State) : Outcome := .next (acceptWord (encode .modinv) modinvAccept s)

/-- One step of the extended Euclidean algorithm (R113), with `Q = R0 div R1` a value of this step only. -/
def miuLoop (k : Miu) : Miu :=
  let q := Substrate.div k.r0 k.r1
  { k with
    r0 := k.r1, r1 := Substrate.sub k.r0 (q * k.r1)
    s0 := k.s1, s1 := Substrate.submul k.s0 q k.s1
    t0 := k.t1, t1 := Substrate.submul k.t0 q k.t1 }

/-- The sequencer's step in `MI_LOOP`: a loop step (R113), the end with an inverse, reduced by the snapshot `MN` (R114), the end
without one (R115). -/
def miuStep (s : State) : State :=
  if s.miu.r1 ≠ 0 then { s with miu := miuLoop s.miu }
  else if s.miu.r0 = 1 then completeWithResult (Substrate.emod s.miu.s0 s.miu.mn) s
  else raiseError .noModularInverse s

end Sys2Proof.Machine
end

