-- ==== Sys2Proof/Machine/Mee.lean ====
section
/-! DEFINITION. MODEXP and the modular exponent engine (R95 to R108). -/

namespace Sys2Proof.Machine

/-- Start of the engine on `(base, exponent, modulus)` for a caller (R97, R130). -/
def meeStart (base exponent modulus : Nat) (caller : Caller) (s : State) : State :=
  { s with
    mee := { mod := modulus, acc := Substrate.mod base modulus, expr := exponent, res := Substrate.mod 1 modulus, caller := caller }
    seq := .meLoop }

/-- The accept of MODEXP after the common writes: `InvalidModulus` when `M = 0` (R96), else the start for the host (R97). -/
def modexpAccept (s : State) : State :=
  if s.m = 0 then raiseError .invalidModulus s else meeStart s.a s.e s.m .host s

/-- MODEXP: its word written to `CMD` (R66, R67, R96, R97). The engine's steps follow by themselves. -/
def execModexp (s : State) : Outcome := .next (acceptWord (encode .modexp) modexpAccept s)

/-- One square-and-multiply step (R98): the exponent's least significant bit decides the multiply, the accumulator is squared
in every step, every right-hand side uses the values before the step. -/
def meeLoop (k : Mee) : Mee :=
  { k with
    res := if Substrate.bit0 k.expr = 1 then Substrate.mulmod k.res k.acc k.mod else k.res
    acc := Substrate.mulmod k.acc k.acc k.mod
    expr := Substrate.shr1 k.expr }

/-- The sequencer's step in `ME_LOOP`: a loop step (R98), the end for the host (R99), the end for the tester (R100). -/
def meeStep (s : State) : State :=
  if s.mee.expr ≠ 0 then { s with mee := meeLoop s.mee }
  else match s.mee.caller with
    | .host => completeWithResult s.mee.res s
    | .mrt => { s with mrt := { s.mrt with x := s.mee.res }, seq := .mrCheck }

/-- How many modular multiplications the sequencer's next step makes in the engine: the squaring, and the multiply into the result
when the exponent's bit is set (R98, R103). -/
def meeMults (s : State) : Nat :=
  if s.seq = .meLoop ∧ s.mee.expr ≠ 0 then 1 + Substrate.bit0 s.mee.expr else 0

end Sys2Proof.Machine
end

