-- ==== Sys2Proof/Machine/Mrt.lean ====
section
/-! DEFINITION. MRTEST and the Miller-Rabin tester (R125 to R145). -/

namespace Sys2Proof.Machine

/-- The accept of MRTEST after the common writes: no validation (R126). -/
def mrtestAccept (s : State) : State :=
  { s with mrt := { s.mrt with nc := s.m, rndleft := s.rounds }, seq := .mrClassify }

/-- MRTEST: its word written to `CMD` (R66, R67, R126). The tester's steps follow by themselves. -/
def execMrtest (s : State) : Outcome := .next (acceptWord (encode .mrtest) mrtestAccept s)

/-- The step in `MR_CLASSIFY`: the first line of R127 whose condition holds. -/
def mrtClassify (s : State) : State :=
  if s.mrt.nc < 2 then completeWithPrime false s
  else if s.mrt.nc = 2 ∨ s.mrt.nc = 3 then completeWithPrime true s
  else if Substrate.even s.mrt.nc then completeWithPrime false s
  else { s with mrt := { s.mrt with d := Substrate.sub s.mrt.nc 1, scnt := 0 }, seq := .mrDecomp }

/-- The step in `MR_DECOMP` (R128). -/
def mrtDecomp (s : State) : State :=
  if Substrate.even s.mrt.d then
    { s with mrt := { s.mrt with d := Substrate.shr1 s.mrt.d, scnt := s.mrt.scnt + 1 } }
  else { s with seq := .mrRound }

/-- The step in `MR_ROUND`: all rounds passed, or a draw request (R129). -/
def mrtRound (s : State) : State :=
  if s.mrt.rndleft = 0 then completeWithPrime true s else { s with seq := .mrDraw }

/-- The step in `MR_DRAW` on the answer `v`: the engine starts on `(v, D, NC)` for the tester (R130). -/
def mrtDraw (v : Nat) (s : State) : State :=
  meeStart v s.mrt.d s.mrt.nc .mrt { s with mrt := { s.mrt with basev := v } }

/-- The round passes: one round fewer is left (R132, R133). -/
def mrtPass (s : State) : State :=
  { s with mrt := { s.mrt with rndleft := BitVec.ofNat 16 (Substrate.sub s.mrt.rndleft.toNat 1) }, seq := .mrRound }

/-- The step in `MR_CHECK` (R132); `X = NC - 1` is asked as `X + 1 = NC`, which is the same on integers
(DESIGN CHOICE, safe: log 22). -/
def mrtCheck (s : State) : State :=
  if s.mrt.x = 1 ∨ s.mrt.x + 1 = s.mrt.nc then mrtPass s
  else { s with mrt := { s.mrt with sqleft := Substrate.sub s.mrt.scnt 1 }, seq := .mrSquare }

/-- The step in `MR_SQUARE` (R133): the comparison is made on the squared value; there is no early exit at 1. -/
def mrtSquare (s : State) : State :=
  if s.mrt.sqleft = 0 then completeWithPrime false s
  else
    let x := Substrate.mulmod s.mrt.x s.mrt.x s.mrt.nc
    let t := { s with mrt := { s.mrt with x := x, sqleft := Substrate.sub s.mrt.sqleft 1 } }
    if x + 1 = s.mrt.nc then mrtPass t else t

/-- An answer `v` of the random source. While a request is outstanding: the step of R130 for an answer in `[2, NC - 2]`, refused
outside it (R168, U7: log 7). With no request outstanding it is not taken and changes nothing (R10, R182;
DEDUCED, unsafe: log 8). -/
def rngAnswer (v : Nat) (s : State) : Outcome :=
  if s.seq ≠ .mrDraw then .next s
  else if 2 ≤ v ∧ v + 2 ≤ s.mrt.nc then .next (mrtDraw v s)
  else .refused (.drawOutOfRange v)

end Sys2Proof.Machine
end

