-- ==== Sys2Proof/Machine/Sequencer.lean ====
section
/-! DEFINITION. One step of the sequencer (R25). -/

namespace Sys2Proof.Machine

/-- One step of the sequencer: for each value of `SEQ` but `IDLE` and `MR_DRAW` exactly one rule applies (R25). In `IDLE`, and in
`MR_DRAW` without an answer, no step is enabled and the state stays (R25, R170, U8; DEDUCED, safe: log 4). -/
def sequencerStep (s : State) : State :=
  match s.seq with
  | .idle => s
  | .meLoop => meeStep s
  | .miLoop => miuStep s
  | .mrClassify => mrtClassify s
  | .mrDecomp => mrtDecomp s
  | .mrRound => mrtRound s
  | .mrDraw => s
  | .mrCheck => mrtCheck s
  | .mrSquare => mrtSquare s

end Sys2Proof.Machine
end

