-- ==== Sys2Proof/Machine/Bus.lean ====
section
/-! DEFINITION. The host's accesses and the turns of the agenda (R43, R44, R51). -/

namespace Sys2Proof.Machine

/-- A word written to `CMD` (R44, R66): a command runs its meaning, any other word is an illegal command (R64). -/
def writeCommand (w : Word) (s : State) : Outcome :=
  match decode w with
  | .command i => exec i s
  | .illegal _ => .next (acceptIllegal w s)

/-- A write to the register an offset names (R44). -/
def writeReg (g : Reg) (w : Word) (s : State) : Outcome :=
  match g with
  | .cmd => writeCommand w s
  | g => .next (regWrite g w s)

/-- `MemRead(addr, size)`: the word returned, of the state at the instant of the read (R43, R49). -/
def memRead (addr size : Nat) (s : State) : Except Refusal Word :=
  match busOffset s.params addr size with
  | .ok off => .ok (regRead (regAt s.params.limbs off) s)
  | .error why => .error why

/-- `MemWrite(addr, size, w)` (R44). -/
def memWrite (addr size : Nat) (w : Word) (s : State) : Outcome :=
  match busOffset s.params addr size with
  | .ok off => writeReg (regAt s.params.limbs off) w s
  | .error why => .refused why

/-- One turn of the total order (R51). A read changes nothing but the model's own record of the words read (R48;
DESIGN CHOICE, safe: log 10). -/
def perform (v : Event) (s : State) : Outcome :=
  match v with
  | .write addr size w => memWrite addr size w s
  | .read addr size =>
    match memRead addr size s with
    | .ok w => .next { s with readWords := w :: s.readWords }
    | .error why => .refused why
  | .answer x => rngAnswer x s
  | .reset => .next (resetBlock s)
  | .seqStep => .next (sequencerStep s)

/-- The next transition: the first turn of the agenda, taken off it; with no turn waiting the sequencer goes on by itself
(R25: an enabled step is eventually taken; DEDUCED, safe: log 4). -/
def nextTurn (s : State) : Outcome :=
  match s.agenda with
  | [] => .next (sequencerStep s)
  | v :: rest => perform v { s with agenda := rest }

/-- `s` with the word `w` as what the block is given next: its write to `CMD` stands first on the agenda, and the sequencer is idle,
since only then is a `CMD` write accepted (R66, R67; DESIGN CHOICE, safe: log 15). -/
def presentCommand (w : Word) (s : State) : State :=
  { s with seq := .idle, agenda := .write s.params.base 4 w :: s.agenda }

end Sys2Proof.Machine
end

