-- ==== Sys2Proof/Machine/Step.lean ====
section
/-! DEFINITION. The step of the machine, and how a command word is put where the next step takes it. -/

namespace Sys2Proof.Machine

/-- One transition of the block: the next place in the single sequence of R51. -/
def step (s : State) : Host.Outcome State Fault Refusal := nextTurn s

/-- `s` with the command of `nbits` bits `w` presented to the block, so that the next step runs it (DESIGN CHOICE, safe:
log 15). -/
def State.withFetchWord (s : State) (nbits w : Nat) : State :=
  presentCommand (BitVec.ofNat 32 (w % 2 ^ nbits)) s

end Sys2Proof.Machine
end

