-- ==== Sys2Proof/Machine/Script.lean ====
section
/-! DEFINITION. The host-script notation (R69 to R71): what each line puts on the agenda. -/

namespace Sys2Proof.Machine.Script

/-- `WR32 off, w` (R69). -/
def wr32 (p : Config.Params) (off : Nat) (w : Word) : Event := .write (p.base + off) 4 w

/-- `RD32 off` (R69). -/
def rd32 (p : Config.Params) (off : Nat) : Event := .read (p.base + off) 4

/-- `RNG v` (R69). -/
def rng (v : Nat) : Event := .answer v

/-- `WRBIG X, v`, for `X` one of `A`, `E`, `M`: all `L` limbs, least significant first (R70). -/
def wrbig (p : Config.Params) (b : Bank) (v : Nat) : List Event :=
  (List.range p.limbs).map fun i => wr32 p (bankOffset b + 4 * i) (limb v i)

/-- `RDBIG X`: reads of all `L` limbs, least significant first (R70). -/
def rdbig (p : Config.Params) (b : Bank) : List Event :=
  (List.range p.limbs).map fun i => rd32 p (bankOffset b + 4 * i)

/-- `CMD op` (R70, R71). -/
def cmd (p : Config.Params) (i : Instr) : Event := wr32 p 0x0000 (encode i)

/-- One way `WAITDONE` or `WAITIDLE` can go: before each poll of `STATUS` the sequencer takes as many steps as the list says. R70
leaves the number of polls and of steps between them open; the host ends the loop. -/
def wait (p : Config.Params) (gaps : List Nat) : List Event :=
  gaps.flatMap fun n => List.replicate n .seqStep ++ [rd32 p 0x0004]

/-- The condition on the word of `STATUS` that ends `WAITDONE`: BUSY = 0 and DONE = 1 (R70). -/
def waitDoneEnds (w : Word) : Bool := !w.getLsbD 0 && w.getLsbD 1

/-- The condition on the word of `STATUS` that ends `WAITIDLE`: BUSY = 0 (R70). -/
def waitIdleEnds (w : Word) : Bool := !w.getLsbD 0

end Sys2Proof.Machine.Script
end

