-- ==== Sys2Proof/Safety.lean ====
section
/-! DEFINITION. What the claims are stated with: runs of the machine, the invariants of the spec, and the arithmetic the
results of the commands are compared with. -/

namespace Sys2Proof.Safety

open Sys2Proof.Machine

/-! ### Runs -/

/-- `k` steps of the machine, stopping at the first that gives no next state. -/
def runSteps : Nat → State → Outcome
  | 0, s => .next s
  | k + 1, s =>
    match step s with
    | .next t => runSteps k t
    | .fault f => .fault f
    | .refused why => .refused why

/-- `k` steps of a block that the host leaves alone and whose outstanding draws are answered from `draws`, in order (R167). With no
answer left the block waits (R170). The state reached and the answers not taken; `none` when a step gives no next state. -/
def drive : Nat → List Nat → State → Option (State × List Nat)
  | 0, draws, s => some (s, draws)
  | k + 1, draws, s =>
    match s.seq, draws with
    | .mrDraw, v :: rest =>
      match step { s with agenda := [.answer v] } with
      | .next t => drive k rest t
      | _ => none
    | _, _ =>
      match step { s with agenda := [] } with
      | .next t => drive k draws t
      | _ => none

/-- The modular multiplications the engine makes in the next `k` sequencer steps (R103). -/
def multsOver : Nat → State → Nat
  | 0, _ => 0
  | k + 1, s => meeMults s + multsOver k (sequencerStep s)

/-! ### Arithmetic -/

/-- `passes(n, a)` of R135, for `n - 1 = 2^s * d`. -/
def RoundPasses (n s d a : Nat) : Prop :=
  a ^ d % n = 1 ∨ ∃ j, j < s ∧ a ^ (2 ^ j * d) % n = n - 1

/-- `n - 1 = 2^s * d` with `d` odd (R128). -/
abbrev Decomposes (n s d : Nat) : Prop := n = 2 ^ s * d + 1 ∧ d % 2 = 1

/-- An answer the random source may give for a request about `n` (R168). -/
abbrev InDrawRange (n v : Nat) : Prop := 2 ≤ v ∧ v + 2 ≤ n

/-! ### Invariants -/

/-- Every operand register holds a big value (R7, R12). -/
abbrev OperandsBounded (s : State) : Prop :=
  s.a < 2 ^ s.params.nbits ∧ s.e < 2 ^ s.params.nbits ∧ s.m < 2 ^ s.params.nbits ∧ s.r < 2 ^ s.params.nbits

/-- The engine's bounds while it runs (R102). -/
abbrev MeeBounded (s : State) : Prop :=
  s.seq = .meLoop →
    s.mee.acc < s.mee.mod ∧ s.mee.res < s.mee.mod ∧ 1 ≤ s.mee.mod ∧ s.mee.mod < 2 ^ s.params.nbits ∧
      s.mee.expr < 2 ^ s.params.nbits

/-- The inverse unit's remainders and snapshot while it runs (R30, R117). -/
abbrev MiuBounded (s : State) : Prop :=
  s.seq = .miLoop →
    s.miu.r0 < 2 ^ s.params.nbits ∧ s.miu.r1 < 2 ^ s.params.nbits ∧ 1 ≤ s.miu.mn ∧ s.miu.mn < 2 ^ s.params.nbits

/-- The tester is between its decomposition and its completion, the engine's run for it included (R24, R131). -/
abbrev InRounds (s : State) : Prop :=
  s.seq = .mrRound ∨ s.seq = .mrDraw ∨ s.seq = .mrCheck ∨ s.seq = .mrSquare ∨ (s.seq = .meLoop ∧ s.mee.caller = .mrt)

/-- The tester's registers while it runs (R128, R132, R143). -/
abbrev MrtBounded (s : State) : Prop :=
  (s.seq = .mrClassify → s.mrt.nc < 2 ^ s.params.nbits) ∧
  (s.seq = .mrDecomp →
    5 ≤ s.mrt.nc ∧ s.mrt.nc % 2 = 1 ∧ s.mrt.nc < 2 ^ s.params.nbits ∧ s.mrt.nc = 2 ^ s.mrt.scnt * s.mrt.d + 1) ∧
  (InRounds s →
    5 ≤ s.mrt.nc ∧ s.mrt.nc % 2 = 1 ∧ s.mrt.nc < 2 ^ s.params.nbits ∧ Decomposes s.mrt.nc s.mrt.scnt s.mrt.d ∧
      1 ≤ s.mrt.scnt ∧ s.mrt.scnt ≤ s.params.nbits - 1 ∧ s.mrt.d < s.mrt.nc) ∧
  (InRounds s → s.seq ≠ .mrRound → s.mrt.rndleft ≠ 0) ∧
  (s.seq = .meLoop → s.mee.caller = .mrt → s.mee.mod = s.mrt.nc ∧ InDrawRange s.mrt.nc s.mrt.basev) ∧
  (s.seq = .mrCheck → s.mrt.x < s.mrt.nc ∧ InDrawRange s.mrt.nc s.mrt.basev) ∧
  (s.seq = .mrSquare → s.mrt.x < s.mrt.nc ∧ s.mrt.sqleft ≤ s.mrt.scnt - 1 ∧ InDrawRange s.mrt.nc s.mrt.basev)

/-- Every register holds a value its width can hold, and the units' registers keep their bounds (R12, R102, R117, R143). -/
abbrev RegistersBounded (s : State) : Prop :=
  OperandsBounded s ∧ MeeBounded s ∧ MiuBounded s ∧ MrtBounded s

/-- The command whose word `CMDREG` holds is the one the sequencer runs (R19, R24). -/
abbrev CommandMatches (s : State) : Prop :=
  (s.seq = .meLoop → s.mee.caller = .host → s.cmdreg = 1) ∧
  (s.seq = .miLoop → s.cmdreg = 2) ∧
  (InRounds s ∨ s.seq = .mrClassify ∨ s.seq = .mrDecomp → s.cmdreg = 3)

/-- The five clauses of R28. Clause (d) and (e) together say that `BUSY = 0` and `DONE = 0` is the state before the first accept;
what an accept would have changed is then as reset left it. -/
abbrev FlagsConsistent (s : State) : Prop :=
  (busy s = true → s.done = false) ∧
  (s.err ≠ 0 → s.done = true ∧ busy s = false) ∧
  (s.prime = true → s.done = true ∧ s.err = 0 ∧ s.cmdreg = 3) ∧
  (busy s = false → s.done = false →
    s.err = 0 ∧ s.prime = false ∧ s.cmdreg = 0 ∧ s.r = 0 ∧
      s.mee = (State.resetOf s.params).mee ∧ s.miu = (State.resetOf s.params).miu ∧ s.mrt = (State.resetOf s.params).mrt)

/-- `ERR` never holds a reserved code (R151, U12). -/
abbrev ErrCodeUsed (s : State) : Prop := s.err = 0 ∨ s.err = 1 ∨ s.err = 2 ∨ s.err = 5

/-- The flags, the error code and the control state agree (R28, R151). -/
abbrev VisibleConsistent (s : State) : Prop := FlagsConsistent s ∧ ErrCodeUsed s ∧ CommandMatches s

/-- While the inverse unit runs, the Bezout identities of R116 (a) hold for the accepted `A = a`, and the gcd is that of `a` and the
snapshot. -/
abbrev BezoutHolds (a : Nat) (s : State) : Prop :=
  s.seq = .miLoop →
    (s.miu.r0 : Int) = s.miu.s0 * a + s.miu.t0 * s.miu.mn ∧ (s.miu.r1 : Int) = s.miu.s1 * a + s.miu.t1 * s.miu.mn ∧
      Nat.gcd s.miu.r0 s.miu.r1 = Nat.gcd a s.miu.mn

/-- What the host can see of the block, and what decides whether it can see more: every host-visible register and `SEQ` (R11). -/
structure View where
  a      : Nat
  e      : Nat
  m      : Nat
  r      : Nat
  cmdreg : Word
  rounds : BitVec 16
  done   : Bool
  prime  : Bool
  err    : BitVec 8
  seq    : SeqState
  deriving DecidableEq, Repr

/-- The view of a state. -/
def view (s : State) : View :=
  { a := s.a, e := s.e, m := s.m, r := s.r, cmdreg := s.cmdreg, rounds := s.rounds, done := s.done, prime := s.prime,
    err := s.err, seq := s.seq }

/-- The transitions of R25 that a sequencer step or an answered draw may take, from `SEQ` and `CALLER`. -/
def seqEdges : SeqState → Caller → List SeqState
  | .idle, _ => []
  | .meLoop, .host => [.meLoop, .idle]
  | .meLoop, .mrt => [.meLoop, .mrCheck]
  | .miLoop, _ => [.miLoop, .idle]
  | .mrClassify, _ => [.idle, .mrDecomp]
  | .mrDecomp, _ => [.mrDecomp, .mrRound]
  | .mrRound, _ => [.idle, .mrDraw]
  | .mrDraw, _ => [.meLoop]
  | .mrCheck, _ => [.mrRound, .mrSquare]
  | .mrSquare, _ => [.mrSquare, .mrRound, .idle]

end Sys2Proof.Safety
end

