-- ==== Sys2Proof/Certificates/Slice0/Obligations.lean ====
section
/-! DEFINITION. The statements for the provers. Each docstring names the rules of spec/ it formalises. An equation
`… = .next { s with … }` is also the frame: every field it does not name is unchanged. -/

open Sys2Proof Sys2Proof.Machine Sys2Proof.Machine.Substrate Sys2Proof.Safety

/-! ### Encoding -/

/-- The words of 95_test_vectors.md section 2, the three commands written out bit by bit. -/
def Obligations.CommandWordsDecode : Prop :=
  decode 0b00000000000000000000000000000001#32 = .command .modexp ∧
  decode 0b00000000000000000000000000000010#32 = .command .modinv ∧
  decode 0b00000000000000000000000000000011#32 = .command .mrtest ∧
  decode 0x00000000#32 = .illegal .unassignedOpcode ∧ decode 0x00000004#32 = .illegal .unassignedOpcode ∧
  decode 0x0000000F#32 = .illegal .unassignedOpcode ∧ decode 0x00000011#32 = .illegal .reservedBitsSet ∧
  decode 0x80000003#32 = .illegal .reservedBitsSet ∧ decode 0x00010002#32 = .illegal .reservedBitsSet ∧
  decode 0xFFFFFFFF#32 = .illegal .reservedBitsSet

/-- R62: a word selects a command when `word & mask = match`; exactly three words are commands. -/
def Obligations.WordSelectsCommandByMaskAndMatch : Prop :=
  (∀ (w : Word) (i : Instr), decode w = .command i ↔ w &&& maskWord i = matchWord i) ∧
  (∀ w : Word, (∃ i, decode w = .command i) ↔ w = 0x00000001 ∨ w = 0x00000002 ∨ w = 0x00000003)

/-- Decoding an encoded command gives it back (R60 to R62). -/
def Obligations.DecodeEncodeRoundTrip : Prop :=
  ∀ i : Instr, i.wf = true → decode (encode i) = .command i

/-! ### The step and the accept -/

/-- A write of a command's word to `CMD` at the head of the agenda runs that command (R44, R66). -/
def Obligations.StepRunsTheDecodedCommand : Prop :=
  ∀ (s : State) (rest : List Event) (w : Word) (i : Instr),
    s.agenda = .write s.params.base 4 w :: rest → decode w = .command i → step s = exec i { s with agenda := rest }

/-- Who moves: with nothing on the agenda the sequencer, else the agent of the first turn (R10, R25, R51). The agenda is the
model's own: log 3, log 4. -/
def Obligations.StepTakesTheFirstTurn : Prop :=
  (∀ s : State, s.agenda = [] → step s = .next (sequencerStep s)) ∧
  (∀ (s : State) (v : Event) (rest : List Event), s.agenda = v :: rest → step s = perform v { s with agenda := rest }) ∧
  (∀ s : State, perform .seqStep s = .next (sequencerStep s)) ∧
  (∀ (s : State) (x : Nat), perform (.answer x) s = rngAnswer x s)

/-- R66: what a word written to `CMD` does while the sequencer is idle, every word and every case of the command's own accept. -/
def Obligations.AcceptActsByTheWord : Prop :=
  ∀ (w : Word) (s : State), s.seq = .idle →
    writeCommand w s = .next (
      if w = 0x00000001 then
        if s.m = 0 then { s with cmdreg := w, done := true, err := 1, prime := false }
        else { s with
          cmdreg := w, done := false, err := 0, prime := false, seq := .meLoop
          mee := { mod := s.m, acc := s.a % s.m, expr := s.e, res := 1 % s.m, caller := .host } }
      else if w = 0x00000002 then
        if s.m = 0 then { s with cmdreg := w, done := true, err := 1, prime := false }
        else { s with
          cmdreg := w, done := false, err := 0, prime := false, seq := .miLoop
          miu := { r0 := s.a, r1 := s.m, s0 := 1, s1 := 0, t0 := 0, t1 := 1, mn := s.m } }
      else if w = 0x00000003 then
        { s with
          cmdreg := w, done := false, err := 0, prime := false, seq := .mrClassify
          mrt := { s.mrt with nc := s.m, rndleft := s.rounds } }
      else { s with cmdreg := w, done := true, err := 5, prime := false })

/-- R64, R156: an illegal word is accepted and completes in the same step; the word stands in `CMDREG`, readable at `CMD`. -/
def Obligations.IllegalWordCompletesAtOnce : Prop :=
  ∀ (w : Word) (s : State), w ≠ 0x00000001 → w ≠ 0x00000002 → w ≠ 0x00000003 → s.seq = .idle →
    ∃ t, perform (.write s.params.base 4 w) s = .next t ∧
      t = { s with cmdreg := w, done := true, err := 5, prime := false } ∧ memRead t.params.base 4 t = .ok w

/-- R67: while the sequencer is not idle a write to `CMD` changes nothing, whatever the word. -/
def Obligations.BusyCommandWriteIsDropped : Prop :=
  ∀ (s : State), s.seq ≠ .idle →
    (∀ w : Word, perform (.write s.params.base 4 w) s = .next s) ∧ (∀ i : Instr, exec i s = .next s)

/-! ### MODEXP -/

/-- R97: the start, and the frame of the accept. -/
def Obligations.ModexpStartsTheEngine : Prop :=
  ∀ s : State, s.seq = .idle → s.m ≠ 0 →
    exec .modexp s = .next { s with
      cmdreg := 0x00000001, done := false, err := 0, prime := false, seq := .meLoop
      mee := { mod := s.m, acc := s.a % s.m, expr := s.e, res := 1 % s.m, caller := .host } }

/-- R96: validation. -/
def Obligations.ModexpRefusesZeroModulus : Prop :=
  ∀ s : State, s.seq = .idle → s.m = 0 →
    exec .modexp s = .next { s with cmdreg := 0x00000001, done := true, err := 1, prime := false }

/-- R98: the loop step. `0 < MOD` holds in every reachable state (R102). -/
def Obligations.EngineLoopStep : Prop :=
  ∀ s : State, s.seq = .meLoop → s.mee.expr ≠ 0 → 0 < s.mee.mod →
    sequencerStep s = { s with mee := { s.mee with
      res := if s.mee.expr % 2 = 1 then s.mee.res * s.mee.acc % s.mee.mod else s.mee.res
      acc := s.mee.acc * s.mee.acc % s.mee.mod
      expr := s.mee.expr / 2 } }

/-- R99 and R100: the end for the host and the end for the tester. -/
def Obligations.EngineEndsForItsCaller : Prop :=
  ∀ s : State, s.seq = .meLoop → s.mee.expr = 0 →
    (s.mee.caller = .host → sequencerStep s = { s with r := s.mee.res, done := true, seq := .idle }) ∧
    (s.mee.caller = .mrt → sequencerStep s = { s with mrt := { s.mrt with x := s.mee.res }, seq := .mrCheck })

/-- R101: after exactly `bitlen(E)` loop steps and one end step `R = A^E mod M`; the loop invariant holds on the way; nothing but
`CMDREG`, the flags, `R` and the engine's registers has changed (R104). -/
def Obligations.ModexpComputesThePower : Prop :=
  ∀ s : State, s.seq = .idle → s.m ≠ 0 → s.agenda = [] →
    ∃ t, exec .modexp s = .next t ∧
      (∀ k, k ≤ bitlen s.e → ∃ u, runSteps k t = .next u ∧ u.seq = .meLoop ∧
        u.mee.expr = s.e / 2 ^ k ∧ u.mee.acc = s.a ^ 2 ^ k % s.m ∧ u.mee.res = s.a ^ (s.e % 2 ^ k) % s.m) ∧
      ∃ mee, runSteps (bitlen s.e + 1) t = .next { s with
        cmdreg := 0x00000001, done := true, err := 0, prime := false, r := s.a ^ s.e % s.m, mee := mee }

/-- R103: `bitlen(E)` squarings and `popcount(E)` multiplications into the result. -/
def Obligations.ModexpMultiplicationCount : Prop :=
  ∀ s : State, s.seq = .idle → s.m ≠ 0 →
    ∃ t, exec .modexp s = .next t ∧ multsOver (bitlen s.e + 1) t = bitlen s.e + popcount s.e ∧
      bitlen s.e + popcount s.e ≤ 2 * bitlen s.e

/-! ### MODINV -/

/-- R112: the start, and the frame of the accept. -/
def Obligations.ModinvStartsTheUnit : Prop :=
  ∀ s : State, s.seq = .idle → s.m ≠ 0 →
    exec .modinv s = .next { s with
      cmdreg := 0x00000002, done := false, err := 0, prime := false, seq := .miLoop
      miu := { r0 := s.a, r1 := s.m, s0 := 1, s1 := 0, t0 := 0, t1 := 1, mn := s.m } }

/-- R111: validation, whatever `A` is; with `A = 0` it is still code 1, not code 2 (R157). -/
def Obligations.ModinvRefusesZeroModulus : Prop :=
  ∀ s : State, s.seq = .idle → s.m = 0 →
    exec .modinv s = .next { s with cmdreg := 0x00000002, done := true, err := 1, prime := false }

/-- R113: the Euclid step; the new remainder is `R0 mod R1`. -/
def Obligations.InverseUnitLoopStep : Prop :=
  ∀ s : State, s.seq = .miLoop → s.miu.r1 ≠ 0 →
    ∃ q r : Nat, q = s.miu.r0 / s.miu.r1 ∧ (r : Int) = s.miu.r0 - q * s.miu.r1 ∧ r = s.miu.r0 % s.miu.r1 ∧
      sequencerStep s = { s with miu := { s.miu with
        r0 := s.miu.r1, r1 := r
        s0 := s.miu.s1, s1 := s.miu.s0 - q * s.miu.s1
        t0 := s.miu.t1, t1 := s.miu.t0 - q * s.miu.t1 } }

/-- R114: the end with an inverse, reduced by the snapshot `MN`. -/
def Obligations.InverseUnitEndsWithTheInverse : Prop :=
  ∀ s : State, s.seq = .miLoop → s.miu.r1 = 0 → s.miu.r0 = 1 → 0 < s.miu.mn →
    ∃ r : Nat, r < s.miu.mn ∧ (s.miu.mn : Int) ∣ s.miu.s0 - r ∧
      sequencerStep s = { s with r := r, done := true, seq := .idle }

/-- R115: the end without an inverse; `R` is not written. -/
def Obligations.InverseUnitEndsWithoutInverse : Prop :=
  ∀ s : State, s.seq = .miLoop → s.miu.r1 = 0 → s.miu.r0 ≠ 1 →
    sequencerStep s = { s with err := 2, done := true, seq := .idle }

/-- R116 (a): the Bezout identities and the gcd hold from the accept on, in every state of the loop. -/
def Obligations.BezoutIdentitiesAreKept : Prop :=
  (∀ s : State, s.seq = .idle → s.m ≠ 0 → ∃ t, exec .modinv s = .next t ∧ t.seq = .miLoop ∧ BezoutHolds s.a t) ∧
  (∀ (a : Nat) (s : State), s.seq = .miLoop → BezoutHolds a s → BezoutHolds a (sequencerStep s))

/-- R117: the bounds of the remainders and of the coefficients, in every state of the loop. -/
def Obligations.InverseUnitCoefficientBounds : Prop :=
  ∀ s : State, s.seq = .idle → s.m ≠ 0 →
    ∃ t, exec .modinv s = .next t ∧ ∀ k, ∀ u : State, u = sequencerStep^[k] t → u.seq = .miLoop →
      u.miu.r0 ≤ max s.a s.m ∧ u.miu.r1 ≤ max s.a s.m ∧
      u.miu.s0.natAbs ≤ s.m ∧ u.miu.s1.natAbs ≤ s.m ∧ u.miu.t0.natAbs ≤ max s.a 1 ∧ u.miu.t1.natAbs ≤ max s.a 1 ∧
      (u.miu.r1 ≠ 0 →
        u.miu.r0 / u.miu.r1 * u.miu.s1.natAbs ≤ 2 * s.m ∧ u.miu.r0 / u.miu.r1 * u.miu.t1.natAbs ≤ 2 * max s.a 1)

/-- R116 (b), (e), (f), R118 to R120: MODINV completes within `2 * bitlen(M) + 3` steps; when `gcd(A, M) = 1` it writes the one
inverse in `[0, M)`, else it reports `NoModularInverse` and leaves `R`; nothing else of the visible state changes. -/
def Obligations.ModinvComputesTheInverse : Prop :=
  ∀ s : State, s.seq = .idle → s.m ≠ 0 → s.agenda = [] →
    ∃ t, exec .modinv s = .next t ∧ ∃ k, k ≤ 2 * bitlen s.m + 3 ∧
      (∀ j, j < k → ∃ u, runSteps j t = .next u ∧ u.seq = .miLoop) ∧
      (Nat.gcd s.a s.m = 1 → ∃ r miu, r < s.m ∧ s.a * r % s.m = 1 % s.m ∧ (∀ y, y < s.m → s.a * y % s.m = 1 % s.m → y = r) ∧
        runSteps k t = .next { s with cmdreg := 0x00000002, done := true, err := 0, prime := false, r := r, miu := miu }) ∧
      (Nat.gcd s.a s.m ≠ 1 → ∃ miu,
        runSteps k t = .next { s with cmdreg := 0x00000002, done := true, err := 2, prime := false, miu := miu })

/-! ### MRTEST -/

/-- R126: the start, with no validation, and the frame of the accept. -/
def Obligations.MrtestStartsTheTester : Prop :=
  ∀ s : State, s.seq = .idle →
    exec .mrtest s = .next { s with
      cmdreg := 0x00000003, done := false, err := 0, prime := false, seq := .mrClassify
      mrt := { s.mrt with nc := s.m, rndleft := s.rounds } }

/-- R127: the four lines of the classify step. -/
def Obligations.ClassifyStep : Prop :=
  ∀ s : State, s.seq = .mrClassify →
    sequencerStep s =
      if s.mrt.nc < 2 then { s with prime := false, done := true, seq := .idle }
      else if s.mrt.nc = 2 ∨ s.mrt.nc = 3 then { s with prime := true, done := true, seq := .idle }
      else if s.mrt.nc % 2 = 0 then { s with prime := false, done := true, seq := .idle }
      else { s with mrt := { s.mrt with d := s.mrt.nc - 1, scnt := 0 }, seq := .mrDecomp }

/-- R128: the decompose step, and from the classify step of an odd `NC ≥ 5` the decomposition it leaves, after exactly `SCNT`
halvings and the leaving step. -/
def Obligations.DecomposeWritesTwoPowerTimesOdd : Prop :=
  (∀ s : State, s.seq = .mrDecomp →
    sequencerStep s =
      if s.mrt.d % 2 = 0 then { s with mrt := { s.mrt with d := s.mrt.d / 2, scnt := s.mrt.scnt + 1 } }
      else { s with seq := .mrRound }) ∧
  (∀ s : State, s.seq = .mrClassify → 5 ≤ s.mrt.nc → s.mrt.nc % 2 = 1 →
    ∃ c d, Decomposes s.mrt.nc c d ∧ 1 ≤ c ∧ 1 ≤ d ∧ c ≤ bitlen s.mrt.nc - 1 ∧
      sequencerStep^[c + 2] s = { s with mrt := { s.mrt with d := d, scnt := c }, seq := .mrRound })

/-- R129: the round start, with the bounds of the request it issues (R167). -/
def Obligations.RoundStartStep : Prop :=
  ∀ s : State, s.seq = .mrRound →
    (s.mrt.rndleft = 0 → sequencerStep s = { s with prime := true, done := true, seq := .idle }) ∧
    (s.mrt.rndleft ≠ 0 → 5 ≤ s.mrt.nc →
      sequencerStep s = { s with seq := .mrDraw } ∧ rngRequest (sequencerStep s) = some (2, s.mrt.nc - 2) ∧ 2 ≤ s.mrt.nc - 2)

/-- R130: the draw step on an answer in `[2, NC - 2]`; the engine's run for the tester, which leaves `X = BASEV^D mod NC`; the model
has no step for another answer (R168, U7). -/
def Obligations.DrawStartsTheEngine : Prop :=
  ∀ (s : State) (v : Nat), s.seq = .mrDraw →
    (2 ≤ v → v + 2 ≤ s.mrt.nc →
      ∃ t, perform (.answer v) s = .next t ∧
        t = { s with
          mrt := { s.mrt with basev := v }, seq := .meLoop
          mee := { mod := s.mrt.nc, acc := v, expr := s.mrt.d, res := 1, caller := .mrt } } ∧
        ∃ mee, sequencerStep^[bitlen s.mrt.d + 1] t =
          { s with mrt := { s.mrt with basev := v, x := v ^ s.mrt.d % s.mrt.nc }, seq := .mrCheck, mee := mee }) ∧
    ((v < 2 ∨ s.mrt.nc < v + 2) → perform (.answer v) s = .refused (.drawOutOfRange v))

/-- R170: with no answer the block stays in `MR_DRAW` for ever; no turn but an answer or a reset takes it out. -/
def Obligations.UnansweredDrawWaitsForEver : Prop :=
  ∀ s : State, s.seq = .mrDraw →
    (s.agenda = [] → ∀ k, runSteps k s = .next s) ∧ busy s = true ∧
    (∀ (v : Event) (t : State), (∀ x, v ≠ .answer x) → v ≠ .reset → perform v s = .next t → t.seq = .mrDraw)

/-- An answer with no request outstanding is not taken and changes nothing. R182 says so of an answer after a reset, R10 that an
answer is the input of one step and changes nothing else; that it holds in every state but `MR_DRAW` is the model's reading:
log 8. -/
def Obligations.AnswerWithoutRequestIsNotTaken : Prop :=
  ∀ (s : State) (v : Nat), s.seq ≠ .mrDraw → perform (.answer v) s = .next s

/-- R132: the check. `RNDLEFT`, `SCNT` and `NC` are above 0 in every reachable state (R128, R129). -/
def Obligations.CheckStep : Prop :=
  ∀ s : State, s.seq = .mrCheck → s.mrt.rndleft ≠ 0 → 1 ≤ s.mrt.scnt → 1 ≤ s.mrt.nc →
    sequencerStep s =
      if s.mrt.x = 1 ∨ s.mrt.x = s.mrt.nc - 1 then { s with mrt := { s.mrt with rndleft := s.mrt.rndleft - 1 }, seq := .mrRound }
      else { s with mrt := { s.mrt with sqleft := s.mrt.scnt - 1 }, seq := .mrSquare }

/-- R133: the squaring step; the comparison is made on the new `X`. -/
def Obligations.SquareStep : Prop :=
  ∀ s : State, s.seq = .mrSquare → s.mrt.rndleft ≠ 0 → 1 ≤ s.mrt.nc →
    sequencerStep s =
      if s.mrt.sqleft = 0 then { s with prime := false, done := true, seq := .idle }
      else if s.mrt.x * s.mrt.x % s.mrt.nc = s.mrt.nc - 1 then
        { s with
          mrt := { s.mrt with
            x := s.mrt.x * s.mrt.x % s.mrt.nc, sqleft := s.mrt.sqleft - 1, rndleft := s.mrt.rndleft - 1 }
          seq := .mrRound }
      else { s with mrt := { s.mrt with x := s.mrt.x * s.mrt.x % s.mrt.nc, sqleft := s.mrt.sqleft - 1 } }

/-- R135, R138, R190: the answers that need no draw (first part), and for odd `n ≥ 5` the answer and the number of draws made, as a
function of the draws, within the step bound (second part; with `ROUNDS = 0` it is `PRIME = 1` with no draw). -/
def Obligations.MrtestVerdictOfTheDraws : Prop :=
  (∀ s : State, s.seq = .idle → s.m < 4 ∨ s.m % 2 = 0 →
    ∃ t, exec .mrtest s = .next t ∧ sequencerStep t = { s with
      cmdreg := 0x00000003, done := true, err := 0, prime := decide (s.m = 2 ∨ s.m = 3)
      mrt := { s.mrt with nc := s.m, rndleft := s.rounds } }) ∧
  (∀ (s : State) (draws : List Nat) (c d : Nat), s.seq = .idle → 5 ≤ s.m → s.m % 2 = 1 →
    s.rounds.toNat ≤ draws.length → (∀ v, v ∈ draws → InDrawRange s.m v) → Decomposes s.m c d →
    ∃ t u rest, exec .mrtest s = .next t ∧
      drive (2 + bitlen s.m + s.rounds.toNat * (bitlen s.m + 4)) draws t = some (u, rest) ∧
      u.seq = .idle ∧ u.done = true ∧ u.err = 0 ∧
      (((∀ v, v ∈ draws.take s.rounds.toNat → RoundPasses s.m c d v) ∧ u.prime = true ∧ rest = draws.drop s.rounds.toNat) ∨
        ∃ j v, j < s.rounds.toNat ∧ (∀ x, x ∈ draws.take j → RoundPasses s.m c d x) ∧ draws[j]? = some v ∧
          ¬ RoundPasses s.m c d v ∧ u.prime = false ∧ rest = draws.drop (j + 1)))

/-- R136 (a): the test never rejects a true prime, whatever the draws and whatever `ROUNDS`. -/
def Obligations.MrtestNeverRejectsAPrime : Prop :=
  ∀ (s : State) (draws : List Nat) (k : Nat), s.seq = .idle → Nat.Prime s.m → (∀ v, v ∈ draws → InDrawRange s.m v) →
    ∃ t u rest, exec .mrtest s = .next t ∧ drive k draws t = some (u, rest) ∧
      (u.seq = .idle → u.prime = true ∧ u.done = true ∧ u.err = 0)

/-- R139 and R140: what MRTEST writes and what it leaves, at every moment of its run; it never raises. -/
def Obligations.MrtestLeavesOperandsAndResult : Prop :=
  ∀ (s : State) (draws : List Nat), s.seq = .idle →
    ∃ t, exec .mrtest s = .next t ∧ ∀ (k : Nat) (u : State) (rest : List Nat), drive k draws t = some (u, rest) →
      u.a = s.a ∧ u.e = s.e ∧ u.m = s.m ∧ u.r = s.r ∧ u.rounds = s.rounds ∧ u.miu = s.miu ∧ u.cmdreg = 0x00000003 ∧
      u.err = 0 ∧ (rest = draws → u.mee = s.mee)

/-! ### Errors and status -/

/-- R158: the error completion writes `ERR`, `DONE` and `SEQ` and nothing else; `STATUS` then reads DONE and ERRF. -/
def Obligations.ErrorCompletionWritesOnlyTheError : Prop :=
  ∀ (k : ErrorKind) (s : State),
    raiseError k s = { s with err := errorCode k, done := true, seq := .idle } ∧
    (s.prime = false → statusWord (raiseError k s) = 0x00000006)

/-- R20: the bits of `STATUS`, and that a write to it is ignored. -/
def Obligations.StatusShowsTheFlags : Prop :=
  ∀ s : State,
    memRead (s.params.base + 0x0004) 4 s = .ok (statusWord s) ∧
    ((statusWord s).getLsbD 0 = true ↔ s.seq ≠ .idle) ∧ (statusWord s).getLsbD 1 = s.done ∧
    ((statusWord s).getLsbD 2 = true ↔ s.err ≠ 0) ∧ (statusWord s).getLsbD 3 = s.prime ∧
    (∀ i, 4 ≤ i → (statusWord s).getLsbD i = false) ∧
    (∀ w : Word, perform (.write (s.params.base + 0x0004) 4 w) s = .next s)

/-- The only words `STATUS` can read (95_test_vectors.md section 7), from the invariant `VisibleConsistent`. -/
def Obligations.ReachableStatusWords : Prop :=
  ∀ s : State, VisibleConsistent s →
    statusWord s = 0x00000000 ∨ statusWord s = 0x00000001 ∨ statusWord s = 0x00000002 ∨ statusWord s = 0x00000006 ∨
      statusWord s = 0x0000000A

/-! ### Host accesses -/

/-- R43: the word every read returns; a read changes nothing (the model records the word in a field of its own: log 10). -/
def Obligations.HostReadFollowsTheMap : Prop :=
  ∀ (s : State) (off L : Nat), L = s.params.limbs → off < 0x8000 → off % 4 = 0 →
    ∃ w : Word, perform (.read (s.params.base + off) 4) s = .next { s with readWords := w :: s.readWords } ∧
      w = (if off = 0x0000 then s.cmdreg
        else if off = 0x0004 then statusWord s
        else if off = 0x0008 then s.err.setWidth 32
        else if off = 0x000C then s.rounds.setWidth 32
        else if off = 0x0010 then BitVec.ofNat 32 L
        else if 0x1000 ≤ off ∧ off < 0x1000 + 4 * L then BitVec.ofNat 32 (s.a / 2 ^ (32 * ((off - 0x1000) / 4)))
        else if 0x2000 ≤ off ∧ off < 0x2000 + 4 * L then BitVec.ofNat 32 (s.e / 2 ^ (32 * ((off - 0x2000) / 4)))
        else if 0x3000 ≤ off ∧ off < 0x3000 + 4 * L then BitVec.ofNat 32 (s.m / 2 ^ (32 * ((off - 0x3000) / 4)))
        else if 0x4000 ≤ off ∧ off < 0x4000 + 4 * L then BitVec.ofNat 32 (s.r / 2 ^ (32 * ((off - 0x4000) / 4)))
        else 0)

/-- R44: what every write does. -/
def Obligations.HostWriteFollowsTheMap : Prop :=
  ∀ (s : State) (off L : Nat) (w : Word), L = s.params.limbs → off < 0x8000 → off % 4 = 0 →
    perform (.write (s.params.base + off) 4 w) s =
      if off = 0x0000 then if s.seq = .idle then writeCommand w s else .next s
      else .next (
        if off = 0x000C then { s with rounds := BitVec.ofNat 16 w.toNat }
        else if 0x1000 ≤ off ∧ off < 0x1000 + 4 * L then { s with a := setLimb s.a ((off - 0x1000) / 4) w }
        else if 0x2000 ≤ off ∧ off < 0x2000 + 4 * L then { s with e := setLimb s.e ((off - 0x2000) / 4) w }
        else if 0x3000 ≤ off ∧ off < 0x3000 + 4 * L then { s with m := setLimb s.m ((off - 0x3000) / 4) w }
        else s)

/-- The limb update of R44 on a big value: limb `i` is replaced, every other limb keeps its value, and the value stays big. -/
def Obligations.LimbWriteReplacesOneLimb : Prop :=
  ∀ (L v i : Nat) (w : Word), i < L → v < 2 ^ (32 * L) →
    setLimb v i w < 2 ^ (32 * L) ∧ limb (setLimb v i w) i = w ∧ ∀ j, j ≠ i → limb (setLimb v i w) j = limb v j

/-- R45: an access that is no aligned 32-bit word of the block is refused, and no other access is. -/
def Obligations.AccessIsRefusedExactlyWhenMalformed : Prop :=
  ∀ (s : State) (addr size : Nat) (w : Word),
    (accessWf s.params addr size = false →
      (∃ why, perform (.read addr size) s = .refused why) ∧ (∃ why, perform (.write addr size w) s = .refused why)) ∧
    (accessWf s.params addr size = true →
      (∃ t, perform (.read addr size) s = .next t) ∧ (∃ t, perform (.write addr size w) s = .next t))

/-- R46 and R47: reserved offsets read 0 and ignore writes; read-only registers ignore writes. -/
def Obligations.ReservedAndReadOnlyIgnoreWrites : Prop :=
  ∀ (s : State) (off : Nat) (w : Word), off % 4 = 0 →
    ((0x0014 ≤ off ∧ off < 0x1000 ∨ 0x5000 ≤ off ∧ off < 0x8000 ∨
        ∃ b i, s.params.limbs ≤ i ∧ i < 1024 ∧ off = bankOffset b + 4 * i) →
      memRead (s.params.base + off) 4 s = .ok 0 ∧ perform (.write (s.params.base + off) 4 w) s = .next s) ∧
    ((off = 0x0004 ∨ off = 0x0008 ∨ off = 0x0010 ∨ ∃ i, i < s.params.limbs ∧ off = 0x4000 + 4 * i) →
      perform (.write (s.params.base + off) 4 w) s = .next s)

/-- R22: `ROUNDS` keeps bits 15:0 of a write and reads back zero-extended; the running test's `RNDLEFT` is untouched; MRTEST copies
it at the accept. -/
def Obligations.RoundsKeepsSixteenBits : Prop :=
  ∀ (s : State) (w : Word), ∃ t, perform (.write (s.params.base + 0x000C) 4 w) s = .next t ∧
    t = { s with rounds := w.extractLsb' 0 16 } ∧ memRead (t.params.base + 0x000C) 4 t = .ok (w &&& 0x0000FFFF) ∧
    (s.seq = .idle → ∃ u, exec .mrtest t = .next u ∧ u.mrt.rndleft = w.extractLsb' 0 16)

/-- R23: `CAP` reads `L`, 1 to 1024, and ignores writes; `NBITS = 32 * L`. -/
def Obligations.CapReadsTheLimbCount : Prop :=
  ∀ (s : State) (w : Word),
    (∃ c : Word, memRead (s.params.base + 0x0010) 4 s = .ok c ∧ c.toNat = s.params.limbs ∧
      s.params.nbits = 32 * c.toNat ∧ 1 ≤ c.toNat ∧ c.toNat ≤ 1024) ∧
    perform (.write (s.params.base + 0x0010) 4 w) s = .next s

/-- R48: a read changes nothing but the model's record of it, and writing the same word twice to any register but `CMD` is as
writing it once. -/
def Obligations.ReadsAndOperandWritesAreIdempotent : Prop :=
  (∀ (s t : State) (addr size : Nat), perform (.read addr size) s = .next t →
    ∃ w, t = { s with readWords := w :: s.readWords } ∧ memRead addr size t = .ok w) ∧
  (∀ (g : Reg) (w : Word) (s : State), regWrite g w (regWrite g w s) = regWrite g w s)

/-- R50, R53, R55: while a command runs, a host write to any register but `CMD` commutes with its steps: it takes effect in its own
register and does not reach the command. -/
def Obligations.HostWritesDoNotReachTheRunningCommand : Prop :=
  ∀ (g : Reg) (w : Word) (s : State), s.seq ≠ .idle →
    sequencerStep (regWrite g w s) = regWrite g w (sequencerStep s) ∧
    (∀ (v : Nat) (t : State), rngAnswer v s = .next t → rngAnswer v (regWrite g w s) = .next (regWrite g w t))

/-- R70 and R65: `WRBIG` leaves exactly the value in the register, whatever it held before. -/
def Obligations.WrbigLoadsTheWholeOperand : Prop :=
  ∀ (s : State) (v : Nat), OperandsBounded s → v < 2 ^ s.params.nbits →
    (s.agenda = Script.wrbig s.params .a v → runSteps s.params.limbs s = .next { s with a := v, agenda := [] }) ∧
    (s.agenda = Script.wrbig s.params .e v → runSteps s.params.limbs s = .next { s with e := v, agenda := [] }) ∧
    (s.agenda = Script.wrbig s.params .m v → runSteps s.params.limbs s = .next { s with m := v, agenda := [] })

/-- R70 and R42: `RDBIG` returns the limbs of the register, least significant first, and their sum is its value. -/
def Obligations.RdbigReturnsTheOperand : Prop :=
  ∀ (s : State) (b : Bank), OperandsBounded s → s.agenda = Script.rdbig s.params b →
    ∃ ws : List Word, ws.length = s.params.limbs ∧ fromLimbs ws = bankValue b s ∧
      runSteps s.params.limbs s = .next { s with agenda := [], readWords := ws.reverse ++ s.readWords }

/-- R33, first sentence: no working register can be read by the host. -/
def Obligations.HostCannotReadWorkingRegisters : Prop :=
  ∀ (s : State) (mee : Mee) (miu : Miu) (mrt : Mrt) (addr size : Nat),
    memRead addr size { s with mee := mee, miu := miu, mrt := mrt } = memRead addr size s

/-- R33, R193: what earlier commands left in the working registers is unobservable: two idle blocks that look alike to the host run
every command alike, step by step, on the same draws. -/
def Obligations.StaleWorkingRegistersAreUnobservable : Prop :=
  ∀ (i : Instr) (s s' : State) (draws : List Nat) (k : Nat), s.seq = .idle → view s = view s' →
    ∃ t t', exec i s = .next t ∧ exec i s' = .next t' ∧
      (drive k draws t).map (fun p => (view p.1, p.2)) = (drive k draws t').map (fun p => (view p.1, p.2))

/-! ### Reset -/

/-- R35: the reset value of every piece of state and of the views, for every legal set of parameters; and the defaults of R6. -/
def Obligations.ResetLeavesTheTable : Prop :=
  (∀ (p : Config.Params) (s : State), s = State.resetOf p →
    s.a = 0 ∧ s.e = 0 ∧ s.m = 0 ∧ s.r = 0 ∧ s.cmdreg = 0 ∧ s.rounds = p.defaultRounds ∧ s.done = false ∧ s.prime = false ∧
    s.err = 0 ∧ s.seq = .idle ∧ s.mee.caller = .host ∧
    s.mee.mod = 0 ∧ s.mee.acc = 0 ∧ s.mee.expr = 0 ∧ s.mee.res = 0 ∧
    s.miu.r0 = 0 ∧ s.miu.r1 = 0 ∧ s.miu.s0 = 0 ∧ s.miu.s1 = 0 ∧ s.miu.t0 = 0 ∧ s.miu.t1 = 0 ∧ s.miu.mn = 0 ∧
    s.mrt.nc = 0 ∧ s.mrt.d = 0 ∧ s.mrt.scnt = 0 ∧ s.mrt.rndleft = 0 ∧ s.mrt.basev = 0 ∧ s.mrt.x = 0 ∧ s.mrt.sqleft = 0 ∧
    statusWord s = 0x00000000 ∧ memRead (p.base + 0x0010) 4 s = .ok (BitVec.ofNat 32 p.limbs)) ∧
  State.reset.rounds = 20 ∧ State.reset.params.nbits = 2048

/-- R181: a reset gives every piece of state its reset value in one step, whatever the block was doing. -/
def Obligations.ResetTurnClearsTheBlock : Prop :=
  ∀ (s : State) (rest : List Event), s.agenda = .reset :: rest →
    step s = .next { State.resetOf s.params with agenda := rest, readWords := s.readWords }

/-! ### Invariants and whole-machine rules -/

/-- The state after reset meets both invariants, for every legal set of parameters. -/
def Obligations.ResetMeetsTheInvariants : Prop :=
  (∀ p : Config.Params, RegistersBounded (State.resetOf p) ∧ VisibleConsistent (State.resetOf p)) ∧
  RegistersBounded State.reset ∧ VisibleConsistent State.reset

/-- R12, R102, R117, R143: every step keeps every register within its width and the units' registers within their bounds. -/
def Obligations.StepKeepsRegistersBounded : Prop :=
  ∀ s t : State, RegistersBounded s → step s = .next t → RegistersBounded t

/-- R28, R151: every step keeps the flags, the error code and the control state consistent. -/
def Obligations.StepKeepsTheFlagsConsistent : Prop :=
  ∀ s t : State, VisibleConsistent s → step s = .next t → VisibleConsistent t

/-- No step changes the machine's parameters (R36: they are parameters of the step relation, log 1). -/
def Obligations.ParametersNeverChange : Prop :=
  ∀ s t : State, step s = .next t → t.params = s.params

/-- R25: only an accept of a command's word leaves `IDLE`; every other transition is one of the table's, or a reset. -/
def Obligations.SequencerFollowsTheTransitionTable : Prop :=
  (∀ s t : State, step s = .next t → s.seq = .idle → t.seq ≠ .idle →
    ∃ w rest, s.agenda = .write s.params.base 4 w :: rest ∧
      (w = 0x00000001 ∧ s.m ≠ 0 ∧ t.seq = .meLoop ∨ w = 0x00000002 ∧ s.m ≠ 0 ∧ t.seq = .miLoop ∨
        w = 0x00000003 ∧ t.seq = .mrClassify)) ∧
  (∀ s : State, s.seq ≠ .idle → s.seq ≠ .mrDraw → (sequencerStep s).seq ∈ seqEdges s.seq s.mee.caller) ∧
  (∀ (s t : State) (v : Nat), s.seq = .mrDraw → rngAnswer v s = .next t → t.seq = .meLoop ∧ t.mee.caller = .mrt) ∧
  (∀ s t : State, step s = .next t → s.seq ≠ .idle → t.seq ≠ s.seq →
    t.seq ∈ seqEdges s.seq s.mee.caller ∨ ∃ rest, s.agenda = .reset :: rest)

/-- R16: `R` is written only by the success completion of MODEXP or MODINV, and by reset. -/
def Obligations.ResultIsWrittenOnlyBySuccess : Prop :=
  ∀ s t : State, step s = .next t → t.r ≠ s.r →
    (∃ rest, s.agenda = .reset :: rest) ∨
      ((s.agenda = [] ∨ ∃ rest, s.agenda = .seqStep :: rest) ∧ t.done = true ∧ t.err = s.err ∧ t.seq = .idle ∧
        (s.seq = .meLoop ∧ s.mee.caller = .host ∧ s.mee.expr = 0 ∨ s.seq = .miLoop ∧ s.miu.r1 = 0 ∧ s.miu.r0 = 1))

/-- R134: `PRIME` is set only by a completion of MRTEST, and cleared only by an accept, a completion of MRTEST or reset. -/
def Obligations.PrimeIsWrittenOnlyByTheTester : Prop :=
  ∀ s t : State, step s = .next t → t.prime ≠ s.prime →
    (t.prime = true → (s.seq = .mrClassify ∧ (s.mrt.nc = 2 ∨ s.mrt.nc = 3) ∨ s.seq = .mrRound ∧ s.mrt.rndleft = 0) ∧
      t.done = true ∧ t.seq = .idle ∧ t.err = s.err) ∧
    (t.prime = false → (∃ w rest, s.agenda = .write s.params.base 4 w :: rest ∧ s.seq = .idle) ∨
      (∃ rest, s.agenda = .reset :: rest) ∨ s.seq = .mrClassify ∨ s.seq = .mrSquare)

/-- R13 to R15, R22: no command writes `A`, `E`, `M` or `ROUNDS`; only the host's writes and reset change them. -/
def Obligations.OperandsAreWrittenOnlyByTheHost : Prop :=
  (∀ (i : Instr) (s : State), ∃ t, exec i s = .next t ∧ t.a = s.a ∧ t.e = s.e ∧ t.m = s.m ∧ t.rounds = s.rounds) ∧
  (∀ s t : State, step s = .next t → (∀ addr size w rest, s.agenda ≠ .write addr size w :: rest) →
    (∀ rest, s.agenda ≠ .reset :: rest) → t.a = s.a ∧ t.e = s.e ∧ t.m = s.m ∧ t.rounds = s.rounds)
end

