-- ==== Sys2Proof/Laws/State.lean ====
section
/-! SUPPORT. One lemma per field per named update of the state, so that no later proof unfolds a record update. -/

namespace Sys2Proof.Machine

section acceptCommon

variable (w : Word) (s : State)

@[simp] theorem acceptCommon_params : (acceptCommon w s).params = s.params := rfl
@[simp] theorem acceptCommon_a : (acceptCommon w s).a = s.a := rfl
@[simp] theorem acceptCommon_e : (acceptCommon w s).e = s.e := rfl
@[simp] theorem acceptCommon_m : (acceptCommon w s).m = s.m := rfl
@[simp] theorem acceptCommon_r : (acceptCommon w s).r = s.r := rfl
@[simp] theorem acceptCommon_cmdreg : (acceptCommon w s).cmdreg = w := rfl
@[simp] theorem acceptCommon_rounds : (acceptCommon w s).rounds = s.rounds := rfl
@[simp] theorem acceptCommon_done : (acceptCommon w s).done = false := rfl
@[simp] theorem acceptCommon_prime : (acceptCommon w s).prime = false := rfl
@[simp] theorem acceptCommon_err : (acceptCommon w s).err = 0 := rfl
@[simp] theorem acceptCommon_seq : (acceptCommon w s).seq = s.seq := rfl
@[simp] theorem acceptCommon_mee : (acceptCommon w s).mee = s.mee := rfl
@[simp] theorem acceptCommon_miu : (acceptCommon w s).miu = s.miu := rfl
@[simp] theorem acceptCommon_mrt : (acceptCommon w s).mrt = s.mrt := rfl
@[simp] theorem acceptCommon_agenda : (acceptCommon w s).agenda = s.agenda := rfl
@[simp] theorem acceptCommon_readWords : (acceptCommon w s).readWords = s.readWords := rfl

end acceptCommon

section raiseError

variable (k : ErrorKind) (s : State)

@[simp] theorem raiseError_params : (raiseError k s).params = s.params := rfl
@[simp] theorem raiseError_a : (raiseError k s).a = s.a := rfl
@[simp] theorem raiseError_e : (raiseError k s).e = s.e := rfl
@[simp] theorem raiseError_m : (raiseError k s).m = s.m := rfl
@[simp] theorem raiseError_r : (raiseError k s).r = s.r := rfl
@[simp] theorem raiseError_cmdreg : (raiseError k s).cmdreg = s.cmdreg := rfl
@[simp] theorem raiseError_rounds : (raiseError k s).rounds = s.rounds := rfl
@[simp] theorem raiseError_done : (raiseError k s).done = true := rfl
@[simp] theorem raiseError_prime : (raiseError k s).prime = s.prime := rfl
@[simp] theorem raiseError_err : (raiseError k s).err = errorCode k := rfl
@[simp] theorem raiseError_seq : (raiseError k s).seq = .idle := rfl
@[simp] theorem raiseError_mee : (raiseError k s).mee = s.mee := rfl
@[simp] theorem raiseError_miu : (raiseError k s).miu = s.miu := rfl
@[simp] theorem raiseError_mrt : (raiseError k s).mrt = s.mrt := rfl
@[simp] theorem raiseError_agenda : (raiseError k s).agenda = s.agenda := rfl
@[simp] theorem raiseError_readWords : (raiseError k s).readWords = s.readWords := rfl

end raiseError

section completeWithResult

variable (v : Nat) (s : State)

@[simp] theorem completeWithResult_params : (completeWithResult v s).params = s.params := rfl
@[simp] theorem completeWithResult_a : (completeWithResult v s).a = s.a := rfl
@[simp] theorem completeWithResult_e : (completeWithResult v s).e = s.e := rfl
@[simp] theorem completeWithResult_m : (completeWithResult v s).m = s.m := rfl
@[simp] theorem completeWithResult_r : (completeWithResult v s).r = v := rfl
@[simp] theorem completeWithResult_cmdreg : (completeWithResult v s).cmdreg = s.cmdreg := rfl
@[simp] theorem completeWithResult_rounds : (completeWithResult v s).rounds = s.rounds := rfl
@[simp] theorem completeWithResult_done : (completeWithResult v s).done = true := rfl
@[simp] theorem completeWithResult_prime : (completeWithResult v s).prime = s.prime := rfl
@[simp] theorem completeWithResult_err : (completeWithResult v s).err = s.err := rfl
@[simp] theorem completeWithResult_seq : (completeWithResult v s).seq = .idle := rfl
@[simp] theorem completeWithResult_mee : (completeWithResult v s).mee = s.mee := rfl
@[simp] theorem completeWithResult_miu : (completeWithResult v s).miu = s.miu := rfl
@[simp] theorem completeWithResult_mrt : (completeWithResult v s).mrt = s.mrt := rfl
@[simp] theorem completeWithResult_agenda : (completeWithResult v s).agenda = s.agenda := rfl
@[simp] theorem completeWithResult_readWords : (completeWithResult v s).readWords = s.readWords := rfl

end completeWithResult

section completeWithPrime

variable (b : Bool) (s : State)

@[simp] theorem completeWithPrime_params : (completeWithPrime b s).params = s.params := rfl
@[simp] theorem completeWithPrime_a : (completeWithPrime b s).a = s.a := rfl
@[simp] theorem completeWithPrime_e : (completeWithPrime b s).e = s.e := rfl
@[simp] theorem completeWithPrime_m : (completeWithPrime b s).m = s.m := rfl
@[simp] theorem completeWithPrime_r : (completeWithPrime b s).r = s.r := rfl
@[simp] theorem completeWithPrime_cmdreg : (completeWithPrime b s).cmdreg = s.cmdreg := rfl
@[simp] theorem completeWithPrime_rounds : (completeWithPrime b s).rounds = s.rounds := rfl
@[simp] theorem completeWithPrime_done : (completeWithPrime b s).done = true := rfl
@[simp] theorem completeWithPrime_prime : (completeWithPrime b s).prime = b := rfl
@[simp] theorem completeWithPrime_err : (completeWithPrime b s).err = s.err := rfl
@[simp] theorem completeWithPrime_seq : (completeWithPrime b s).seq = .idle := rfl
@[simp] theorem completeWithPrime_mee : (completeWithPrime b s).mee = s.mee := rfl
@[simp] theorem completeWithPrime_miu : (completeWithPrime b s).miu = s.miu := rfl
@[simp] theorem completeWithPrime_mrt : (completeWithPrime b s).mrt = s.mrt := rfl
@[simp] theorem completeWithPrime_agenda : (completeWithPrime b s).agenda = s.agenda := rfl
@[simp] theorem completeWithPrime_readWords : (completeWithPrime b s).readWords = s.readWords := rfl

end completeWithPrime

section meeStart

variable (b x n : Nat) (c : Caller) (s : State)

@[simp] theorem meeStart_params : (meeStart b x n c s).params = s.params := rfl
@[simp] theorem meeStart_a : (meeStart b x n c s).a = s.a := rfl
@[simp] theorem meeStart_e : (meeStart b x n c s).e = s.e := rfl
@[simp] theorem meeStart_m : (meeStart b x n c s).m = s.m := rfl
@[simp] theorem meeStart_r : (meeStart b x n c s).r = s.r := rfl
@[simp] theorem meeStart_cmdreg : (meeStart b x n c s).cmdreg = s.cmdreg := rfl
@[simp] theorem meeStart_rounds : (meeStart b x n c s).rounds = s.rounds := rfl
@[simp] theorem meeStart_done : (meeStart b x n c s).done = s.done := rfl
@[simp] theorem meeStart_prime : (meeStart b x n c s).prime = s.prime := rfl
@[simp] theorem meeStart_err : (meeStart b x n c s).err = s.err := rfl
@[simp] theorem meeStart_seq : (meeStart b x n c s).seq = .meLoop := rfl
@[simp] theorem meeStart_mee : (meeStart b x n c s).mee = { mod := n, acc := Substrate.mod b n, expr := x, res := Substrate.mod 1 n, caller := c } := rfl
@[simp] theorem meeStart_miu : (meeStart b x n c s).miu = s.miu := rfl
@[simp] theorem meeStart_mrt : (meeStart b x n c s).mrt = s.mrt := rfl
@[simp] theorem meeStart_agenda : (meeStart b x n c s).agenda = s.agenda := rfl
@[simp] theorem meeStart_readWords : (meeStart b x n c s).readWords = s.readWords := rfl

end meeStart

section miuStart

variable (x n : Nat) (s : State)

@[simp] theorem miuStart_params : (miuStart x n s).params = s.params := rfl
@[simp] theorem miuStart_a : (miuStart x n s).a = s.a := rfl
@[simp] theorem miuStart_e : (miuStart x n s).e = s.e := rfl
@[simp] theorem miuStart_m : (miuStart x n s).m = s.m := rfl
@[simp] theorem miuStart_r : (miuStart x n s).r = s.r := rfl
@[simp] theorem miuStart_cmdreg : (miuStart x n s).cmdreg = s.cmdreg := rfl
@[simp] theorem miuStart_rounds : (miuStart x n s).rounds = s.rounds := rfl
@[simp] theorem miuStart_done : (miuStart x n s).done = s.done := rfl
@[simp] theorem miuStart_prime : (miuStart x n s).prime = s.prime := rfl
@[simp] theorem miuStart_err : (miuStart x n s).err = s.err := rfl
@[simp] theorem miuStart_seq : (miuStart x n s).seq = .miLoop := rfl
@[simp] theorem miuStart_mee : (miuStart x n s).mee = s.mee := rfl
@[simp] theorem miuStart_miu : (miuStart x n s).miu = { r0 := x, r1 := n, s0 := 1, s1 := 0, t0 := 0, t1 := 1, mn := n } := rfl
@[simp] theorem miuStart_mrt : (miuStart x n s).mrt = s.mrt := rfl
@[simp] theorem miuStart_agenda : (miuStart x n s).agenda = s.agenda := rfl
@[simp] theorem miuStart_readWords : (miuStart x n s).readWords = s.readWords := rfl

end miuStart

section mrtestAccept

variable (s : State)

@[simp] theorem mrtestAccept_params : (mrtestAccept s).params = s.params := rfl
@[simp] theorem mrtestAccept_a : (mrtestAccept s).a = s.a := rfl
@[simp] theorem mrtestAccept_e : (mrtestAccept s).e = s.e := rfl
@[simp] theorem mrtestAccept_m : (mrtestAccept s).m = s.m := rfl
@[simp] theorem mrtestAccept_r : (mrtestAccept s).r = s.r := rfl
@[simp] theorem mrtestAccept_cmdreg : (mrtestAccept s).cmdreg = s.cmdreg := rfl
@[simp] theorem mrtestAccept_rounds : (mrtestAccept s).rounds = s.rounds := rfl
@[simp] theorem mrtestAccept_done : (mrtestAccept s).done = s.done := rfl
@[simp] theorem mrtestAccept_prime : (mrtestAccept s).prime = s.prime := rfl
@[simp] theorem mrtestAccept_err : (mrtestAccept s).err = s.err := rfl
@[simp] theorem mrtestAccept_seq : (mrtestAccept s).seq = .mrClassify := rfl
@[simp] theorem mrtestAccept_mee : (mrtestAccept s).mee = s.mee := rfl
@[simp] theorem mrtestAccept_miu : (mrtestAccept s).miu = s.miu := rfl
@[simp] theorem mrtestAccept_mrt : (mrtestAccept s).mrt = { s.mrt with nc := s.m, rndleft := s.rounds } := rfl
@[simp] theorem mrtestAccept_agenda : (mrtestAccept s).agenda = s.agenda := rfl
@[simp] theorem mrtestAccept_readWords : (mrtestAccept s).readWords = s.readWords := rfl

end mrtestAccept

section mrtDraw

variable (v : Nat) (s : State)

@[simp] theorem mrtDraw_params : (mrtDraw v s).params = s.params := rfl
@[simp] theorem mrtDraw_a : (mrtDraw v s).a = s.a := rfl
@[simp] theorem mrtDraw_e : (mrtDraw v s).e = s.e := rfl
@[simp] theorem mrtDraw_m : (mrtDraw v s).m = s.m := rfl
@[simp] theorem mrtDraw_r : (mrtDraw v s).r = s.r := rfl
@[simp] theorem mrtDraw_cmdreg : (mrtDraw v s).cmdreg = s.cmdreg := rfl
@[simp] theorem mrtDraw_rounds : (mrtDraw v s).rounds = s.rounds := rfl
@[simp] theorem mrtDraw_done : (mrtDraw v s).done = s.done := rfl
@[simp] theorem mrtDraw_prime : (mrtDraw v s).prime = s.prime := rfl
@[simp] theorem mrtDraw_err : (mrtDraw v s).err = s.err := rfl
@[simp] theorem mrtDraw_seq : (mrtDraw v s).seq = .meLoop := rfl
@[simp] theorem mrtDraw_mee : (mrtDraw v s).mee = { mod := s.mrt.nc, acc := Substrate.mod v s.mrt.nc, expr := s.mrt.d, res := Substrate.mod 1 s.mrt.nc, caller := .mrt } := rfl
@[simp] theorem mrtDraw_miu : (mrtDraw v s).miu = s.miu := rfl
@[simp] theorem mrtDraw_mrt : (mrtDraw v s).mrt = { s.mrt with basev := v } := rfl
@[simp] theorem mrtDraw_agenda : (mrtDraw v s).agenda = s.agenda := rfl
@[simp] theorem mrtDraw_readWords : (mrtDraw v s).readWords = s.readWords := rfl

end mrtDraw

section mrtPass

variable (s : State)

@[simp] theorem mrtPass_params : (mrtPass s).params = s.params := rfl
@[simp] theorem mrtPass_a : (mrtPass s).a = s.a := rfl
@[simp] theorem mrtPass_e : (mrtPass s).e = s.e := rfl
@[simp] theorem mrtPass_m : (mrtPass s).m = s.m := rfl
@[simp] theorem mrtPass_r : (mrtPass s).r = s.r := rfl
@[simp] theorem mrtPass_cmdreg : (mrtPass s).cmdreg = s.cmdreg := rfl
@[simp] theorem mrtPass_rounds : (mrtPass s).rounds = s.rounds := rfl
@[simp] theorem mrtPass_done : (mrtPass s).done = s.done := rfl
@[simp] theorem mrtPass_prime : (mrtPass s).prime = s.prime := rfl
@[simp] theorem mrtPass_err : (mrtPass s).err = s.err := rfl
@[simp] theorem mrtPass_seq : (mrtPass s).seq = .mrRound := rfl
@[simp] theorem mrtPass_mee : (mrtPass s).mee = s.mee := rfl
@[simp] theorem mrtPass_miu : (mrtPass s).miu = s.miu := rfl
@[simp] theorem mrtPass_mrt : (mrtPass s).mrt = { s.mrt with rndleft := BitVec.ofNat 16 (Substrate.sub s.mrt.rndleft.toNat 1) } := rfl
@[simp] theorem mrtPass_agenda : (mrtPass s).agenda = s.agenda := rfl
@[simp] theorem mrtPass_readWords : (mrtPass s).readWords = s.readWords := rfl

end mrtPass

section resetBlock

variable (s : State)

@[simp] theorem resetBlock_params : (resetBlock s).params = s.params := rfl
@[simp] theorem resetBlock_a : (resetBlock s).a = (State.resetOf s.params).a := rfl
@[simp] theorem resetBlock_e : (resetBlock s).e = (State.resetOf s.params).e := rfl
@[simp] theorem resetBlock_m : (resetBlock s).m = (State.resetOf s.params).m := rfl
@[simp] theorem resetBlock_r : (resetBlock s).r = (State.resetOf s.params).r := rfl
@[simp] theorem resetBlock_cmdreg : (resetBlock s).cmdreg = (State.resetOf s.params).cmdreg := rfl
@[simp] theorem resetBlock_rounds : (resetBlock s).rounds = (State.resetOf s.params).rounds := rfl
@[simp] theorem resetBlock_done : (resetBlock s).done = (State.resetOf s.params).done := rfl
@[simp] theorem resetBlock_prime : (resetBlock s).prime = (State.resetOf s.params).prime := rfl
@[simp] theorem resetBlock_err : (resetBlock s).err = (State.resetOf s.params).err := rfl
@[simp] theorem resetBlock_seq : (resetBlock s).seq = (State.resetOf s.params).seq := rfl
@[simp] theorem resetBlock_mee : (resetBlock s).mee = (State.resetOf s.params).mee := rfl
@[simp] theorem resetBlock_miu : (resetBlock s).miu = (State.resetOf s.params).miu := rfl
@[simp] theorem resetBlock_mrt : (resetBlock s).mrt = (State.resetOf s.params).mrt := rfl
@[simp] theorem resetBlock_agenda : (resetBlock s).agenda = s.agenda := rfl
@[simp] theorem resetBlock_readWords : (resetBlock s).readWords = s.readWords := rfl

end resetBlock

section regWrite

variable (g : Reg) (w : Word) (s : State)

/-- All that a register write can do: nothing, or a new `ROUNDS`, or one limb of `A`, `E` or `M` (R44). -/
theorem regWrite_cases :
    regWrite g w s = s ∨ regWrite g w s = { s with rounds := w.setWidth 16 } ∨
      (∃ i, regWrite g w s = { s with a := setLimb s.a i w }) ∨
      (∃ i, regWrite g w s = { s with e := setLimb s.e i w }) ∨
      (∃ i, regWrite g w s = { s with m := setLimb s.m i w }) := by
  cases g with
  | rounds => exact .inr (.inl rfl)
  | limb b i => cases b with
    | a => exact .inr (.inr (.inl ⟨i, rfl⟩))
    | e => exact .inr (.inr (.inr (.inl ⟨i, rfl⟩)))
    | m => exact .inr (.inr (.inr (.inr ⟨i, rfl⟩)))
    | r => exact .inl rfl
  | cmd | status | err | cap | reserved => exact .inl rfl

@[simp] theorem regWrite_params : (regWrite g w s).params = s.params := by
  rcases regWrite_cases g w s with h | h | ⟨_, h⟩ | ⟨_, h⟩ | ⟨_, h⟩ <;> rw [h]
@[simp] theorem regWrite_r : (regWrite g w s).r = s.r := by
  rcases regWrite_cases g w s with h | h | ⟨_, h⟩ | ⟨_, h⟩ | ⟨_, h⟩ <;> rw [h]
@[simp] theorem regWrite_cmdreg : (regWrite g w s).cmdreg = s.cmdreg := by
  rcases regWrite_cases g w s with h | h | ⟨_, h⟩ | ⟨_, h⟩ | ⟨_, h⟩ <;> rw [h]
@[simp] theorem regWrite_done : (regWrite g w s).done = s.done := by
  rcases regWrite_cases g w s with h | h | ⟨_, h⟩ | ⟨_, h⟩ | ⟨_, h⟩ <;> rw [h]
@[simp] theorem regWrite_prime : (regWrite g w s).prime = s.prime := by
  rcases regWrite_cases g w s with h | h | ⟨_, h⟩ | ⟨_, h⟩ | ⟨_, h⟩ <;> rw [h]
@[simp] theorem regWrite_err : (regWrite g w s).err = s.err := by
  rcases regWrite_cases g w s with h | h | ⟨_, h⟩ | ⟨_, h⟩ | ⟨_, h⟩ <;> rw [h]
@[simp] theorem regWrite_seq : (regWrite g w s).seq = s.seq := by
  rcases regWrite_cases g w s with h | h | ⟨_, h⟩ | ⟨_, h⟩ | ⟨_, h⟩ <;> rw [h]
@[simp] theorem regWrite_mee : (regWrite g w s).mee = s.mee := by
  rcases regWrite_cases g w s with h | h | ⟨_, h⟩ | ⟨_, h⟩ | ⟨_, h⟩ <;> rw [h]
@[simp] theorem regWrite_miu : (regWrite g w s).miu = s.miu := by
  rcases regWrite_cases g w s with h | h | ⟨_, h⟩ | ⟨_, h⟩ | ⟨_, h⟩ <;> rw [h]
@[simp] theorem regWrite_mrt : (regWrite g w s).mrt = s.mrt := by
  rcases regWrite_cases g w s with h | h | ⟨_, h⟩ | ⟨_, h⟩ | ⟨_, h⟩ <;> rw [h]
@[simp] theorem regWrite_agenda : (regWrite g w s).agenda = s.agenda := by
  rcases regWrite_cases g w s with h | h | ⟨_, h⟩ | ⟨_, h⟩ | ⟨_, h⟩ <;> rw [h]
@[simp] theorem regWrite_readWords : (regWrite g w s).readWords = s.readWords := by
  rcases regWrite_cases g w s with h | h | ⟨_, h⟩ | ⟨_, h⟩ | ⟨_, h⟩ <;> rw [h]

end regWrite

end Sys2Proof.Machine
end

