-- ==== Sys2Proof/Laws/Substrate.lean ====
section
/-! SUPPORT. What the substrate's operations give where the spec asks for them (R75 to R88), and the laws of `bitlen` (R7). -/

namespace Sys2Proof.Machine.Substrate

variable {a b m : Nat}

@[simp] theorem div_of_pos (h : 0 < b) : div a b = a / b := if_neg (Nat.ne_of_gt h)

@[simp] theorem mod_of_pos (h : 0 < b) : mod a b = a % b := if_neg (Nat.ne_of_gt h)

@[simp] theorem mulmod_of_pos (h : 0 < m) : mulmod a b m = a * b % m := mod_of_pos h

@[simp] theorem emod_of_pos {x : Int} (h : 0 < b) : emod x b = (x % (b : Int)).toNat := if_neg (Nat.ne_of_gt h)

@[simp] theorem sub_of_le (h : b ≤ a) : sub a b = a - b := if_pos h

theorem mod_lt (h : 0 < b) : mod a b < b := by
  rw [mod_of_pos h]; exact Nat.mod_lt a h

theorem mulmod_lt (h : 0 < m) : mulmod a b m < m := mod_lt h

theorem emod_lt {x : Int} (h : 0 < b) : emod x b < b := by
  rw [emod_of_pos h]
  have := Int.emod_lt_of_pos x (Int.natCast_pos.mpr h)
  have := Int.emod_nonneg x (Int.natCast_ne_zero.mpr (Nat.ne_of_gt h))
  omega

/-- `b` divides `x - (x emod b)` (R80). -/
theorem dvd_sub_emod {x : Int} (h : 0 < b) : (b : Int) ∣ x - emod x b := by
  rw [emod_of_pos h, Int.toNat_of_nonneg (Int.emod_nonneg x (Int.natCast_ne_zero.mpr (Nat.ne_of_gt h)))]
  exact Int.dvd_self_sub_emod

/-- The new remainder of a Euclid step is `R0 mod R1`, and it is never negative (R77, R113). -/
theorem sub_div_mul (h : 0 < b) : sub a (div a b * b) = a % b := by
  have hle : a / b * b ≤ a := Nat.div_mul_le_self a b
  rw [div_of_pos h, sub_of_le hle, Nat.mod_eq_sub_div_mul]

@[simp] theorem submul_eq (s : Int) (q : Nat) (t : Int) : submul s q t = s - q * t := rfl

theorem even_iff : even a = true ↔ a % 2 = 0 := beq_iff_eq

theorem odd_iff : odd a = true ↔ a % 2 = 1 := beq_iff_eq

@[simp] theorem bitlen_zero : bitlen 0 = 0 := rfl

/-- `bitlen(v)` is at most `k` exactly when `v < 2^k`: it is the least such `k` (R7). -/
theorem bitlen_le_iff {v k : Nat} : bitlen v ≤ k ↔ v < 2 ^ k := by
  unfold bitlen
  split
  · subst_vars; simp
  · next h => rw [Nat.succ_le_iff, Nat.log2_lt h]

theorem lt_two_pow_bitlen (v : Nat) : v < 2 ^ bitlen v := bitlen_le_iff.mp (Nat.le_refl _)

/-- Consuming one bit of a nonzero value shortens it by one (R83, R98). -/
theorem bitlen_shr1 {v : Nat} (h : v ≠ 0) : bitlen v = bitlen (shr1 v) + 1 := by
  apply Nat.le_antisymm
  · rw [bitlen_le_iff]
    have := lt_two_pow_bitlen (shr1 v)
    unfold shr1 at *
    rw [Nat.pow_succ]; omega
  · have hpos : bitlen v ≠ 0 := by simp [bitlen, h]
    obtain ⟨k, hk⟩ := Nat.exists_eq_succ_of_ne_zero hpos
    have hv := lt_two_pow_bitlen v
    have : bitlen (shr1 v) ≤ k := by
      rw [bitlen_le_iff]; unfold shr1
      rw [hk, Nat.succ_eq_add_one, Nat.pow_succ] at hv; omega
    omega

end Sys2Proof.Machine.Substrate
end

