-- ==== Sys2Proof/Laws/Machine.lean ====
section
/-! SUPPORT. One lemma for each shared operation that says all it can do, for proofs to cite instead of unfolding it. -/

namespace Sys2Proof.Machine

/-! ### The accept (R66, R67) -/

theorem acceptWord_idle {w : Word} {own : State → State} {s : State} (h : s.seq = .idle) :
    acceptWord w own s = own (acceptCommon w s) := if_pos h

theorem acceptWord_busy {w : Word} {own : State → State} {s : State} (h : s.seq ≠ .idle) : acceptWord w own s = s := if_neg h

theorem modexpAccept_zero {s : State} (h : s.m = 0) : modexpAccept s = raiseError .invalidModulus s := if_pos h

theorem modexpAccept_pos {s : State} (h : s.m ≠ 0) : modexpAccept s = meeStart s.a s.e s.m .host s := if_neg h

theorem modinvAccept_zero {s : State} (h : s.m = 0) : modinvAccept s = raiseError .invalidModulus s := if_pos h

theorem modinvAccept_pos {s : State} (h : s.m ≠ 0) : modinvAccept s = miuStart s.a s.m s := if_neg h

/-- Every command's meaning is a next state: the accept while idle, the same state while busy. -/
theorem exec_eq (i : Instr) (s : State) :
    exec i s = .next (acceptWord (encode i)
      (match i with | .modexp => modexpAccept | .modinv => modinvAccept | .mrtest => mrtestAccept) s) := by
  cases i <;> rfl

/-! ### The sequencer (R25) -/

section sequencerStep

variable {s : State}

@[simp] theorem sequencerStep_idle (h : s.seq = .idle) : sequencerStep s = s := by simp [sequencerStep, h]
@[simp] theorem sequencerStep_meLoop (h : s.seq = .meLoop) : sequencerStep s = meeStep s := by simp [sequencerStep, h]
@[simp] theorem sequencerStep_miLoop (h : s.seq = .miLoop) : sequencerStep s = miuStep s := by simp [sequencerStep, h]
@[simp] theorem sequencerStep_mrClassify (h : s.seq = .mrClassify) : sequencerStep s = mrtClassify s := by simp [sequencerStep, h]
@[simp] theorem sequencerStep_mrDecomp (h : s.seq = .mrDecomp) : sequencerStep s = mrtDecomp s := by simp [sequencerStep, h]
@[simp] theorem sequencerStep_mrRound (h : s.seq = .mrRound) : sequencerStep s = mrtRound s := by simp [sequencerStep, h]
@[simp] theorem sequencerStep_mrDraw (h : s.seq = .mrDraw) : sequencerStep s = s := by simp [sequencerStep, h]
@[simp] theorem sequencerStep_mrCheck (h : s.seq = .mrCheck) : sequencerStep s = mrtCheck s := by simp [sequencerStep, h]
@[simp] theorem sequencerStep_mrSquare (h : s.seq = .mrSquare) : sequencerStep s = mrtSquare s := by simp [sequencerStep, h]

/-- All that one sequencer step can do: nothing, in `IDLE` and in `MR_DRAW`, or the one rule of its state (R25). -/
theorem sequencerStep_cases (s : State) :
    (s.seq = .idle ∨ s.seq = .mrDraw) ∧ sequencerStep s = s ∨ s.seq = .meLoop ∧ sequencerStep s = meeStep s ∨
      s.seq = .miLoop ∧ sequencerStep s = miuStep s ∨ s.seq = .mrClassify ∧ sequencerStep s = mrtClassify s ∨
      s.seq = .mrDecomp ∧ sequencerStep s = mrtDecomp s ∨ s.seq = .mrRound ∧ sequencerStep s = mrtRound s ∨
      s.seq = .mrCheck ∧ sequencerStep s = mrtCheck s ∨ s.seq = .mrSquare ∧ sequencerStep s = mrtSquare s := by
  cases h : s.seq <;> simp [h]

end sequencerStep

section units

variable (s : State)

/-- All that a step in `ME_LOOP` can do (R98 to R100). -/
theorem meeStep_cases :
    s.mee.expr ≠ 0 ∧ meeStep s = { s with mee := meeLoop s.mee } ∨
      s.mee.expr = 0 ∧ s.mee.caller = .host ∧ meeStep s = completeWithResult s.mee.res s ∨
      s.mee.expr = 0 ∧ s.mee.caller = .mrt ∧ meeStep s = { s with mrt := { s.mrt with x := s.mee.res }, seq := .mrCheck } := by
  by_cases h : s.mee.expr = 0
  · cases hc : s.mee.caller <;> simp [meeStep, h, hc]
  · simp [meeStep, h]

/-- All that a step in `MI_LOOP` can do (R113 to R115). -/
theorem miuStep_cases :
    s.miu.r1 ≠ 0 ∧ miuStep s = { s with miu := miuLoop s.miu } ∨
      s.miu.r1 = 0 ∧ s.miu.r0 = 1 ∧ miuStep s = completeWithResult (Substrate.emod s.miu.s0 s.miu.mn) s ∨
      s.miu.r1 = 0 ∧ s.miu.r0 ≠ 1 ∧ miuStep s = raiseError .noModularInverse s := by
  by_cases h : s.miu.r1 = 0
  · by_cases h0 : s.miu.r0 = 1 <;> simp [miuStep, h, h0]
  · simp [miuStep, h]

/-- All that a step in `MR_CLASSIFY` can do (R127). -/
theorem mrtClassify_cases :
    (∃ b, mrtClassify s = completeWithPrime b s ∧
        (b = true ∧ (s.mrt.nc = 2 ∨ s.mrt.nc = 3) ∨ b = false ∧ (s.mrt.nc < 2 ∨ 4 ≤ s.mrt.nc ∧ s.mrt.nc % 2 = 0))) ∨
      5 ≤ s.mrt.nc ∧ s.mrt.nc % 2 = 1 ∧
        mrtClassify s = { s with mrt := { s.mrt with d := s.mrt.nc - 1, scnt := 0 }, seq := .mrDecomp } := by
  unfold mrtClassify
  split
  · exact .inl ⟨false, rfl, .inr ⟨rfl, .inl ‹_›⟩⟩
  · split
    · exact .inl ⟨true, rfl, .inl ⟨rfl, ‹_›⟩⟩
    · split
      · next h => exact .inl ⟨false, rfl, .inr ⟨rfl, .inr ⟨by omega, Substrate.even_iff.mp h⟩⟩⟩
      · next h =>
        rw [Substrate.even_iff] at h
        refine .inr ⟨by omega, by omega, ?_⟩
        rw [Substrate.sub_of_le (by omega)]

/-- All that a step in `MR_DECOMP` can do (R128). -/
theorem mrtDecomp_cases :
    s.mrt.d % 2 = 0 ∧ mrtDecomp s = { s with mrt := { s.mrt with d := s.mrt.d / 2, scnt := s.mrt.scnt + 1 } } ∨
      s.mrt.d % 2 = 1 ∧ mrtDecomp s = { s with seq := .mrRound } := by
  unfold mrtDecomp
  split
  · next h => exact .inl ⟨Substrate.even_iff.mp h, rfl⟩
  · next h => rw [Substrate.even_iff] at h; exact .inr ⟨by omega, rfl⟩

/-- All that a step in `MR_ROUND` can do (R129). -/
theorem mrtRound_cases :
    s.mrt.rndleft = 0 ∧ mrtRound s = completeWithPrime true s ∨
      s.mrt.rndleft ≠ 0 ∧ mrtRound s = { s with seq := .mrDraw } := by
  by_cases h : s.mrt.rndleft = 0
  · exact .inl ⟨h, if_pos h⟩
  · exact .inr ⟨h, if_neg h⟩

/-- All that a step in `MR_CHECK` can do (R132). -/
theorem mrtCheck_cases :
    (s.mrt.x = 1 ∨ s.mrt.x + 1 = s.mrt.nc) ∧ mrtCheck s = mrtPass s ∨
      ¬(s.mrt.x = 1 ∨ s.mrt.x + 1 = s.mrt.nc) ∧
        mrtCheck s = { s with mrt := { s.mrt with sqleft := Substrate.sub s.mrt.scnt 1 }, seq := .mrSquare } := by
  by_cases h : s.mrt.x = 1 ∨ s.mrt.x + 1 = s.mrt.nc
  · exact .inl ⟨h, if_pos h⟩
  · exact .inr ⟨h, if_neg h⟩

/-- All that a step in `MR_SQUARE` can do (R133). -/
theorem mrtSquare_cases :
    s.mrt.sqleft = 0 ∧ mrtSquare s = completeWithPrime false s ∨
      s.mrt.sqleft ≠ 0 ∧ ∃ t, t = { s with
          mrt := { s.mrt with x := Substrate.mulmod s.mrt.x s.mrt.x s.mrt.nc, sqleft := s.mrt.sqleft - 1 } } ∧
        (t.mrt.x + 1 = s.mrt.nc ∧ mrtSquare s = mrtPass t ∨ t.mrt.x + 1 ≠ s.mrt.nc ∧ mrtSquare s = t) := by
  by_cases h : s.mrt.sqleft = 0
  · exact .inl ⟨h, if_pos h⟩
  · refine .inr ⟨h, _, rfl, ?_⟩
    have hsub : Substrate.sub s.mrt.sqleft 1 = s.mrt.sqleft - 1 := Substrate.sub_of_le (by omega)
    by_cases hx : Substrate.mulmod s.mrt.x s.mrt.x s.mrt.nc + 1 = s.mrt.nc
    · exact .inl ⟨hx, by simp [mrtSquare, h, hx, hsub]⟩
    · exact .inr ⟨hx, by simp [mrtSquare, h, hx, hsub]⟩

end units

/-- All that an answer of the random source can do when it gives a next state (R130, R182). -/
theorem rngAnswer_next {v : Nat} {s t : State} (h : rngAnswer v s = .next t) :
    s.seq ≠ .mrDraw ∧ t = s ∨ s.seq = .mrDraw ∧ 2 ≤ v ∧ v + 2 ≤ s.mrt.nc ∧ t = mrtDraw v s := by
  unfold rngAnswer at h
  split at h
  · cases h; exact .inl ⟨‹_›, rfl⟩
  · split at h
    · next hs hv => cases h; exact .inr ⟨not_not.mp hs, hv.1, hv.2, rfl⟩
    · cases h

/-! ### The bus and the turns (R43, R44, R51) -/

/-- An access reaches the block exactly when it is well formed, and then its offset is the distance from `BASE` (R40, R45). -/
theorem busOffset_ok_iff {p : Config.Params} {addr size off : Nat} :
    busOffset p addr size = .ok off ↔ accessWf p addr size = true ∧ off = addr - p.base := by
  unfold busOffset accessWf
  by_cases hs : size = 4
  · by_cases ha : addr < p.base ∨ p.base + 0x8000 ≤ addr
    · simp [hs, ha]; omega
    · by_cases hm : (addr - p.base) % 4 = 0
      · simp [hs, ha, hm]; omega
      · simp [hs, ha, hm]
  · simp [hs]

/-- All that a write of a word to `CMD` can do: a command's meaning, or the illegal command (R64, R66). -/
theorem writeCommand_cases (w : Word) (s : State) :
    (∃ i, decode w = .command i ∧ writeCommand w s = exec i s) ∨
      ∃ why, decode w = .illegal why ∧ writeCommand w s = .next (acceptIllegal w s) := by
  cases h : decode w with
  | command i => exact .inl ⟨i, rfl, by simp [writeCommand, h]⟩
  | illegal why => exact .inr ⟨why, rfl, by simp [writeCommand, h]⟩

/-- All that one turn can do when it gives a next state (R51). -/
theorem perform_next {v : Event} {s t : State} (h : perform v s = .next t) :
    (∃ addr size w, v = .write addr size w ∧ accessWf s.params addr size = true ∧
        writeReg (regAt s.params.limbs (addr - s.params.base)) w s = .next t) ∨
      (∃ addr size, v = .read addr size ∧ accessWf s.params addr size = true ∧
        t = { s with readWords := regRead (regAt s.params.limbs (addr - s.params.base)) s :: s.readWords }) ∨
      (∃ x, v = .answer x ∧ rngAnswer x s = .next t) ∨
      (v = .reset ∧ t = resetBlock s) ∨ (v = .seqStep ∧ t = sequencerStep s) := by
  cases v with
  | write addr size w =>
    simp only [perform, memWrite] at h
    split at h
    · next off ho =>
      obtain ⟨hw, rfl⟩ := busOffset_ok_iff.mp ho
      exact .inl ⟨addr, size, w, rfl, hw, h⟩
    · cases h
  | read addr size =>
    simp only [perform, memRead] at h
    cases ho : busOffset s.params addr size with
    | ok off =>
      obtain ⟨hw, rfl⟩ := busOffset_ok_iff.mp ho
      simp only [ho] at h
      cases h
      exact .inr (.inl ⟨addr, size, rfl, hw, rfl⟩)
    | error why => simp only [ho] at h; cases h
  | answer x => exact .inr (.inr (.inl ⟨x, rfl, h⟩))
  | reset => cases h; exact .inr (.inr (.inr (.inl ⟨rfl, rfl⟩)))
  | seqStep => cases h; exact .inr (.inr (.inr (.inr ⟨rfl, rfl⟩)))

/-- A write to a register other than `CMD` is `regWrite`. -/
theorem writeReg_of_ne {g : Reg} (h : g ≠ .cmd) (w : Word) (s : State) : writeReg g w s = .next (regWrite g w s) := by
  cases g <;> first | rfl | exact absurd rfl h

@[simp] theorem writeReg_cmd (w : Word) (s : State) : writeReg .cmd w s = writeCommand w s := rfl

/-- All that a step can do when it gives a next state: the sequencer goes on, or the first turn is taken. -/
theorem step_next {s t : State} (h : step s = .next t) :
    s.agenda = [] ∧ t = sequencerStep s ∨
      ∃ v rest, s.agenda = v :: rest ∧ perform v { s with agenda := rest } = .next t := by
  unfold step nextTurn at h
  cases ha : s.agenda with
  | nil => simp only [ha] at h; cases h; exact .inl ⟨rfl, rfl⟩
  | cons v rest => simp only [ha] at h; exact .inr ⟨v, rest, rfl, h⟩

end Sys2Proof.Machine
end

