-- ==== Sys2Proof/Laws/PerInstr.lean ====
section
/-! SUPPORT. Statements made once per command: the form of its word (R61 to R63). -/

namespace Sys2Proof.Laws.CommandWord

/-- The command is well formed, its word has `RSV = 0`, its opcode in `OP`, and is the word column `match` of R62 gives. -/
def Statement (i : Instr) : Prop :=
  i.wf = true ∧ rsvField (encode i) = 0 ∧ opField (encode i) = opcode i ∧ encode i = matchWord i

theorem modexp : Statement .modexp := by unfold Statement; decide

theorem modinv : Statement .modinv := by unfold Statement; decide

theorem mrtest : Statement .mrtest := by unfold Statement; decide

end Sys2Proof.Laws.CommandWord
end

