-- ==== Sys2Proof/Tests/Slice0.lean ====
section
/-! SUPPORT. Tests: the ill-formed terms the checks refuse, the words of the spec's encoding, single steps with results taken from
the spec's worked examples and vectors, and for every statement with hypotheses a state that meets them all. -/

namespace Sys2Proof.Tests

open Sys2Proof Sys2Proof.Machine Sys2Proof.Safety

/-! ### Small states -/

/-- NBITS = 64 and a BASE other than 0, as in 95_test_vectors.md section 3. -/
def p64 : Config.Params := { topLimb := 1, defaultRounds := 20, baseIndex := 7 }

def reset64 : State := State.resetOf p64

/-- Idle, with operands written. -/
def loaded (a e m : Nat) : State := { reset64 with a := a, e := e, m := m }

/-- The engine runs for a caller. -/
def inMee (mod acc expr res : Nat) (c : Caller) : State :=
  { reset64 with
    seq := .meLoop, cmdreg := if c = .host then 1 else 3
    mee := { mod := mod, acc := acc, expr := expr, res := res, caller := c } }

/-- The inverse unit runs. -/
def inMiu (r0 r1 : Nat) (s0 s1 t0 t1 : Int) (mn : Nat) : State :=
  { reset64 with
    seq := .miLoop, cmdreg := 2, miu := { r0 := r0, r1 := r1, s0 := s0, s1 := s1, t0 := t0, t1 := t1, mn := mn } }

/-- The tester runs. -/
def inMrt (q : SeqState) (nc d scnt : Nat) (rndleft : BitVec 16) (x sqleft : Nat) : State :=
  { reset64 with
    seq := q, cmdreg := 3
    mrt := { nc := nc, d := d, scnt := scnt, rndleft := rndleft, basev := 2, x := x, sqleft := sqleft } }

/-! ### Well-formedness: each check refuses an ill-formed term -/

theorem test_params_default : Config.Params.ofRaw 2048 20 0 = some Config.Params.default := by decide
theorem test_params_not_multiple_of_32 : Config.Params.ofRaw 33 20 0 = none := by decide
theorem test_params_too_narrow : Config.Params.ofRaw 0 20 0 = none := by decide
theorem test_params_too_wide : Config.Params.ofRaw 32800 20 0 = none := by decide
theorem test_params_widest : (Config.Params.ofRaw 32768 20 0).map Config.Params.limbs = some 1024 := by decide
theorem test_params_rounds_too_many : Config.Params.ofRaw 64 65536 0 = none := by decide
theorem test_params_base_unaligned : Config.Params.ofRaw 64 20 0x4000 = none := by decide

/-- T-MEM-14: a byte access, a 64-bit access, a misaligned access; then the two sides of the block (R40, R45). -/
theorem test_access_refused :
    accessWf p64 (p64.base + 0x1001) 1 = false ∧ accessWf p64 (p64.base + 0x1000) 8 = false ∧
      accessWf p64 (p64.base + 0x1002) 4 = false ∧ accessWf p64 (p64.base + 0x8000) 4 = false ∧
      accessWf p64 (p64.base - 4) 4 = false ∧ accessWf p64 p64.base 4 = true ∧ accessWf p64 (p64.base + 0x7FFC) 4 = true := by
  decide

theorem test_every_command_is_well_formed : ∀ i : Instr, i.wf = true := by intro i; cases i <;> rfl

/-! ### Encoding: words written out from R61 and R62, and T-ENC-1 to T-ENC-10 -/

theorem test_decode_modexp : decode 0b0000000000000000000000000000_0001#32 = .command .modexp := by decide
theorem test_decode_modinv : decode 0b0000000000000000000000000000_0010#32 = .command .modinv := by decide
theorem test_decode_mrtest : decode 0b0000000000000000000000000000_0011#32 = .command .mrtest := by decide
theorem test_decode_zero : decode 0x00000000#32 = .illegal .unassignedOpcode := by decide
theorem test_decode_four : decode 0x00000004#32 = .illegal .unassignedOpcode := by decide
theorem test_decode_reserved_bit_4 : decode 0x00000011#32 = .illegal .reservedBitsSet := by decide
theorem test_decode_reserved_bit_31 : decode 0x80000003#32 = .illegal .reservedBitsSet := by decide
theorem test_table_word : decodeTableWord 32 3 = some .mrtest ∧ decodeTableWord 32 0 = none := by decide
theorem test_per_instr : ∀ i, Laws.CommandWord.Statement i := by
  intro i
  cases i
  · exact Laws.CommandWord.modexp
  · exact Laws.CommandWord.modinv
  · exact Laws.CommandWord.mrtest

/-! ### The first step after reset (T-ENC-1 to T-ENC-3, T-ER-2, T-ER-3) -/

theorem test_modexp_after_reset :
    step (State.reset.withFetchWord 32 1) = .next { State.reset with cmdreg := 1, done := true, err := 1 } := rfl
theorem test_modinv_after_reset :
    step (State.reset.withFetchWord 32 2) = .next { State.reset with cmdreg := 2, done := true, err := 1 } := rfl
theorem test_mrtest_after_reset :
    step (State.reset.withFetchWord 32 3) =
      .next { State.reset with cmdreg := 3, seq := .mrClassify, mrt := { State.reset.mrt with rndleft := 20 } } := rfl
/-- T-ENC-7. -/
theorem test_illegal_after_reset :
    step (State.reset.withFetchWord 32 0x11) = .next { State.reset with cmdreg := 0x11, done := true, err := 5 } := rfl

/-! ### MODEXP -/

/-- R107, step 4: the multiply uses the accumulator before it is squared. -/
theorem test_modexp_loop_step : (sequencerStep (inMee 3233 789 1 65 .host)).mee =
    { mod := 3233, acc := 1785, expr := 0, res := 2790, caller := .host } := by decide
/-- T-ME-5: with modulus 1 the result register starts at 0. -/
theorem test_modexp_modulus_one : exec .modexp (loaded 5 0 1) =
    .next { loaded 5 0 1 with cmdreg := 1, seq := .meLoop, mee := { mod := 1, acc := 0, expr := 0, res := 0, caller := .host } } := rfl

/-! ### MODINV -/

/-- R122, step 4. -/
theorem test_modinv_loop_step : (sequencerStep (inMiu 9 8 (-183) 184 1 (-1) 3120)).miu =
    { r0 := 8, r1 := 1, s0 := 184, s1 := -367, t0 := -1, t1 := 2, mn := 3120 } := by decide
/-- R122, end step: `emod(-367, 3120) = 2753`. -/
theorem test_modinv_end : (sequencerStep (inMiu 1 0 (-367) 3120 2 (-17) 3120)).r = 2753 := by decide

/-! ### MRTEST -/

/-- R144, the third squaring of round 1: 22 squared is 96 = n - 1, the round passes. -/
theorem test_mrtest_square_passes : sequencerStep (inMrt .mrSquare 97 3 5 2 22 2) = inMrt .mrRound 97 3 5 1 96 1 := by decide
/-- R142, the squaring 67 to 1: no early exit at 1. -/
theorem test_mrtest_square_no_early_exit : sequencerStep (inMrt .mrSquare 561 35 4 20 67 1) = inMrt .mrSquare 561 35 4 20 1 0 := by
  decide

/-! ### Substrate (R80's table) -/

theorem test_emod_table :
    Substrate.emod 7 5 = 2 ∧ Substrate.emod 0 5 = 0 ∧ Substrate.emod (-7) 5 = 3 ∧ Substrate.emod (-5) 5 = 0 ∧
      Substrate.emod (-367) 3120 = 2753 ∧ Substrate.emod (-2) 7 = 5 ∧ Substrate.emod 0 1 = 0 ∧ Substrate.emod (-1) 1 = 0 := by
  decide
/-- R106's and T-ME-15's counts. -/
theorem test_bitlen_popcount :
    Substrate.bitlen 0 = 0 ∧ Substrate.bitlen 17 = 5 ∧ Substrate.popcount 17 = 2 ∧ Substrate.bitlen 64 = 7 ∧
      Substrate.popcount 64 = 1 := by
  decide

/-! ### Register access (95_test_vectors.md section 3, NBITS = 64), at the boundaries of the map -/

/-- The word a read at an offset returns, as a number; `none` when the access is refused. -/
def wordAt (off : Nat) (s : State) : Option Nat :=
  match memRead (s.params.base + off) 4 s with
  | .ok w => some w.toNat
  | .error _ => none

theorem test_read_cap : wordAt 0x0010 reset64 = some 2 := by decide
theorem test_read_rounds : wordAt 0x000C reset64 = some 0x14 := by decide
theorem test_read_reserved : ∀ off ∈ [0x0014, 0x0FFC, 0x1008, 0x3008, 0x5000, 0x7FFC], wordAt off reset64 = some 0 := by decide
/-- T-MEM-6 and T-MEM-12: both limbs of `M`, in limb order. -/
theorem test_read_limbs : wordAt 0x3000 (loaded 0 0 4294967311) = some 15 ∧ wordAt 0x3004 (loaded 0 0 4294967311) = some 1 := by decide
/-- T-MEM-4, T-MEM-5. -/
theorem test_write_limbs :
    regWrite (.limb .a 0) 0xFFFFFFFF (regWrite (.limb .a 1) 1 (regWrite (.limb .a 0) 5 reset64)) =
      { reset64 with a := 8589934591 } := by decide
/-- The last limb of `M` and the first reserved offset after it (T-MEM-9). -/
theorem test_limb_boundary : regAt p64.limbs 0x3004 = .limb .m 1 ∧ regAt p64.limbs 0x3008 = .reserved ∧
    regAt p64.limbs 0x3FFC = .reserved ∧ regAt p64.limbs 0x4000 = .limb .r 0 := by decide
/-- T-MEM-7. -/
theorem test_rounds_drops_high_bits : (regWrite .rounds 0x00030001 reset64).rounds = 1 := by decide
/-- T-MEM-10. -/
theorem test_result_is_read_only : regWrite (.limb .r 0) 9 reset64 = reset64 := by decide
/-- T-ER-7: a command written while busy is dropped. -/
theorem test_busy_write_dropped :
    perform (.write p64.base 4 1) (inMrt .mrDraw 97 3 5 1 0 0) = .next (inMrt .mrDraw 97 3 5 1 0 0) := rfl
theorem test_status_busy : statusWord (inMrt .mrDraw 97 3 5 1 0 0) = 1 := by decide
/-- T-ER-9: after a reset an answer is not taken. -/
theorem test_answer_after_reset : perform (.answer 2) reset64 = .next reset64 := rfl

/-! ### Witnesses: a state and operands that meet all hypotheses of a statement together -/

theorem witness_DecodeEncodeRoundTrip : ∃ i : Instr, i.wf = true := ⟨.modexp, rfl⟩
theorem witness_StepRunsTheDecodedCommand : ∃ (s : State) (rest : List Event) (w : Word) (i : Instr),
    s.agenda = .write s.params.base 4 w :: rest ∧ decode w = .command i :=
  ⟨{ reset64 with agenda := [.write p64.base 4 2] }, [], 2, .modinv, by decide⟩
theorem witness_StepTakesTheFirstTurn :
    (∃ s : State, s.agenda = []) ∧ ∃ (s : State) (v : Event) (rest : List Event), s.agenda = v :: rest :=
  ⟨⟨reset64, rfl⟩, { reset64 with agenda := [.seqStep] }, .seqStep, [], rfl⟩
theorem witness_ModexpStartsTheEngine : ∃ s : State, s.seq = .idle ∧ s.m ≠ 0 := ⟨loaded 65 17 3233, by decide⟩
theorem witness_ModexpComputesThePower : ∃ s : State, s.seq = .idle ∧ s.m ≠ 0 ∧ s.agenda = [] := ⟨loaded 0 0 1, by decide⟩
theorem witness_ModexpMultiplicationCount : ∃ s : State, s.seq = .idle ∧ s.m ≠ 0 := ⟨loaded 2 64 18446744073709551615, by decide⟩
theorem witness_ModinvStartsTheUnit : ∃ s : State, s.seq = .idle ∧ s.m ≠ 0 := ⟨loaded 0 0 1, by decide⟩
theorem witness_AcceptActsByTheWord : ∃ s : State, s.seq = .idle := ⟨reset64, rfl⟩
theorem witness_MrtestStartsTheTester : ∃ s : State, s.seq = .idle ∧ s.m = 0 := ⟨loaded 0 0 0, by decide⟩
theorem witness_ModexpRefusesZeroModulus : ∃ s : State, s.seq = .idle ∧ s.m = 0 := ⟨loaded 7 5 0, by decide⟩
theorem witness_ModinvRefusesZeroModulus : ∃ s : State, s.seq = .idle ∧ s.m = 0 ∧ s.a = 0 := ⟨loaded 0 0 0, by decide⟩
theorem witness_IllegalWordCompletesAtOnce : ∃ (w : Word) (s : State),
    w ≠ 1 ∧ w ≠ 2 ∧ w ≠ 3 ∧ s.seq = .idle := ⟨0, reset64, by decide⟩
theorem witness_BusyCommandWriteIsDropped : ∃ s : State, s.seq ≠ .idle := ⟨inMee 3233 65 17 1 .host, by decide⟩
theorem witness_EngineLoopStep : ∃ s : State, s.seq = .meLoop ∧ s.mee.expr ≠ 0 ∧ 0 < s.mee.mod :=
  ⟨inMee 3233 65 17 1 .host, by decide⟩
theorem witness_EngineEndsForItsCaller :
    (∃ s : State, s.seq = .meLoop ∧ s.mee.expr = 0 ∧ s.mee.caller = .host) ∧
      ∃ s : State, s.seq = .meLoop ∧ s.mee.expr = 0 ∧ s.mee.caller = .mrt :=
  ⟨⟨inMee 3233 1785 0 2790 .host, by decide⟩, inMee 97 64 0 8 .mrt, by decide⟩
theorem witness_InverseUnitLoopStep : ∃ s : State, s.seq = .miLoop ∧ s.miu.r1 ≠ 0 := ⟨inMiu 17 3120 1 0 0 1 3120, by decide⟩
theorem witness_InverseUnitEndsWithTheInverse : ∃ s : State, s.seq = .miLoop ∧ s.miu.r1 = 0 ∧ s.miu.r0 = 1 ∧ 0 < s.miu.mn :=
  ⟨inMiu 1 0 (-367) 3120 2 (-17) 3120, by decide⟩
theorem witness_InverseUnitEndsWithoutInverse : ∃ s : State, s.seq = .miLoop ∧ s.miu.r1 = 0 ∧ s.miu.r0 ≠ 1 :=
  ⟨inMiu 3 0 (-1) 3 1 (-2) 9, by decide⟩
theorem witness_BezoutIdentitiesAreKept : (∃ s : State, s.seq = .idle ∧ s.m ≠ 0) ∧
    ∃ (a : Nat) (s : State), s.seq = .miLoop ∧ BezoutHolds a s :=
  ⟨⟨loaded 17 0 3120, by decide⟩, 17, inMiu 9 8 (-183) 184 1 (-1) 3120, by decide⟩
/-- A state of the loop that the start reaches, for the inner hypotheses. -/
theorem witness_InverseUnitCoefficientBounds : ∃ s t u : State, s.seq = .idle ∧ s.m ≠ 0 ∧ exec .modinv s = .next t ∧
    u = sequencerStep^[2] t ∧ u.seq = .miLoop ∧ u.miu.r1 ≠ 0 :=
  ⟨loaded 17 0 3120, _, _, rfl, by decide, rfl, rfl, by decide, by decide⟩
/-- The two cases of the gcd. -/
theorem witness_ModinvComputesTheInverse :
    (∃ s : State, s.seq = .idle ∧ s.m ≠ 0 ∧ s.agenda = [] ∧ Nat.gcd s.a s.m = 1) ∧
      ∃ s : State, s.seq = .idle ∧ s.m ≠ 0 ∧ s.agenda = [] ∧ Nat.gcd s.a s.m ≠ 1 :=
  ⟨⟨loaded 17 0 3120, by decide⟩, loaded 6 0 9, by decide⟩
/-- One state for each line of R127, at the boundary. -/
theorem witness_ClassifyStep :
    ∀ n ∈ [1, 2, 3, 4, 5], (inMrt .mrClassify n 0 0 1 0 0).seq = .mrClassify ∧
      (sequencerStep (inMrt .mrClassify n 0 0 1 0 0)).seq = (if n = 5 then .mrDecomp else .idle) ∧
      (sequencerStep (inMrt .mrClassify n 0 0 1 0 0)).prime = decide (n = 2 ∨ n = 3) := by decide
theorem witness_DecomposeWritesTwoPowerTimesOdd :
    (∃ s : State, s.seq = .mrDecomp ∧ s.mrt.d % 2 = 0) ∧ (∃ s : State, s.seq = .mrDecomp ∧ s.mrt.d % 2 = 1) ∧
      ∃ s : State, s.seq = .mrClassify ∧ 5 ≤ s.mrt.nc ∧ s.mrt.nc % 2 = 1 :=
  ⟨⟨inMrt .mrDecomp 5 4 0 1 0 0, by decide⟩, ⟨inMrt .mrDecomp 5 1 2 1 0 0, by decide⟩, inMrt .mrClassify 5 0 0 1 0 0, by decide⟩
theorem witness_RoundStartStep :
    (∃ s : State, s.seq = .mrRound ∧ s.mrt.rndleft = 0) ∧ ∃ s : State, s.seq = .mrRound ∧ s.mrt.rndleft ≠ 0 ∧ 5 ≤ s.mrt.nc :=
  ⟨⟨inMrt .mrRound 5 1 2 0 0 0, by decide⟩, inMrt .mrRound 5 1 2 1 0 0, by decide⟩
/-- At `NC = 5` the range is `[2, 3]`: both ends are answered, 1 and 4 are refused (R129, R130). -/
theorem witness_DrawStartsTheEngine : ∃ s : State, s.seq = .mrDraw ∧
    (∀ v ∈ [2, 3], 2 ≤ v ∧ v + 2 ≤ s.mrt.nc) ∧ ∀ v ∈ [1, 4], v < 2 ∨ s.mrt.nc < v + 2 :=
  ⟨inMrt .mrDraw 5 1 2 1 0 0, by decide⟩
theorem witness_UnansweredDrawWaitsForEver : ∃ (s t : State) (v : Event), s.seq = .mrDraw ∧ s.agenda = [] ∧
    (∀ x, v ≠ .answer x) ∧ v ≠ .reset ∧ perform v s = .next t :=
  ⟨inMrt .mrDraw 5 1 2 1 0 0, _, .seqStep, rfl, rfl, by simp, by decide, rfl⟩
theorem witness_AnswerWithoutRequestIsNotTaken : ∃ s : State, s.seq ≠ .mrDraw := ⟨reset64, by decide⟩
theorem witness_CheckStep :
    (∃ s : State, s.seq = .mrCheck ∧ s.mrt.rndleft ≠ 0 ∧ 1 ≤ s.mrt.scnt ∧ 1 ≤ s.mrt.nc ∧ s.mrt.x = s.mrt.nc - 1) ∧
      ∃ s : State, s.seq = .mrCheck ∧ s.mrt.rndleft ≠ 0 ∧ 1 ≤ s.mrt.scnt ∧ 1 ≤ s.mrt.nc ∧ s.mrt.x = 8 :=
  ⟨⟨inMrt .mrCheck 97 3 5 1 96 0, by decide⟩, inMrt .mrCheck 97 3 5 1 8 0, by decide⟩
theorem witness_SquareStep :
    (∃ s : State, s.seq = .mrSquare ∧ s.mrt.rndleft ≠ 0 ∧ 1 ≤ s.mrt.nc ∧ s.mrt.sqleft = 0) ∧
      ∃ s : State, s.seq = .mrSquare ∧ s.mrt.rndleft ≠ 0 ∧ 1 ≤ s.mrt.nc ∧ s.mrt.sqleft = 1 :=
  ⟨⟨inMrt .mrSquare 561 35 4 20 1 0, by decide⟩, inMrt .mrSquare 561 35 4 20 67 1, by decide⟩
/-- First part at its boundary, second part with draws that pass and with none wanted. -/
theorem witness_MrtestVerdictOfTheDraws :
    (∃ s : State, s.seq = .idle ∧ (s.m < 4 ∨ s.m % 2 = 0) ∧ s.m = 3) ∧
      (∃ s : State, s.seq = .idle ∧ (s.m < 4 ∨ s.m % 2 = 0) ∧ s.m = 4) ∧
      ∃ (s : State) (draws : List Nat) (c d : Nat), s.seq = .idle ∧ 5 ≤ s.m ∧ s.m % 2 = 1 ∧ s.rounds.toNat ≤ draws.length ∧
        (∀ v ∈ draws, InDrawRange s.m v) ∧ Decomposes s.m c d :=
  ⟨⟨loaded 0 0 3, by decide⟩, ⟨loaded 0 0 4, by decide⟩, { loaded 0 0 5 with rounds := 2 }, [2, 3], 2, 1, by decide⟩
theorem witness_MrtestNeverRejectsAPrime : ∃ (s : State) (draws : List Nat),
    s.seq = .idle ∧ Nat.Prime s.m ∧ ∀ v ∈ draws, InDrawRange s.m v :=
  ⟨{ loaded 0 0 5 with rounds := 2 }, [2, 3], rfl, Nat.prime_five, by decide⟩
theorem witness_MrtestLeavesOperandsAndResult : ∃ (s t u : State) (draws rest : List Nat) (k : Nat),
    s.seq = .idle ∧ exec .mrtest s = .next t ∧ drive k draws t = some (u, rest) :=
  ⟨loaded 0 0 5, _, _, [2], [2], 1, rfl, rfl, rfl⟩
theorem witness_ErrorCompletionWritesOnlyTheError : ∃ s : State, s.prime = false := ⟨reset64, rfl⟩
theorem witness_ReachableStatusWords : ∃ s : State, VisibleConsistent s := ⟨inMrt .mrDraw 97 3 5 1 0 0, by decide⟩
/-- The offsets where the lines of the map meet, with L = 2. -/
theorem witness_HostReadFollowsTheMap : ∀ off ∈ [0x0000, 0x0010, 0x0014, 0x0FFC, 0x1000, 0x1004, 0x1008, 0x4004, 0x4008, 0x7FFC],
    off < 0x8000 ∧ off % 4 = 0 := by decide
/-- A write at both ends of the bank of `E` and just outside it. -/
theorem witness_HostWriteFollowsTheMap : ∀ off ∈ [0x000C, 0x1FFC, 0x2000, 0x2004, 0x2008],
    (off < 0x8000 ∧ off % 4 = 0) ∧ regAt p64.limbs off =
      (if off = 0x000C then .rounds else if off = 0x2000 then .limb .e 0 else if off = 0x2004 then .limb .e 1 else .reserved) := by
  decide
theorem witness_LimbWriteReplacesOneLimb : ∃ L v i : Nat, i < L ∧ v < 2 ^ (32 * L) := ⟨2, 4294967301, 1, by decide⟩
theorem witness_AccessIsRefusedExactlyWhenMalformed : (∃ (p : Config.Params) (addr size : Nat), accessWf p addr size = false) ∧
    ∃ (p : Config.Params) (addr size : Nat), accessWf p addr size = true :=
  ⟨⟨p64, p64.base + 0x1002, 4, by decide⟩, p64, p64.base + 0x7FFC, 4, by decide⟩
/-- The first offset of each reserved range and of each read-only register. -/
theorem witness_ReservedAndReadOnlyIgnoreWrites :
    (∀ off ∈ [0x0014, 0x0FFC, 0x5000, 0x7FFC], off % 4 = 0 ∧ (0x0014 ≤ off ∧ off < 0x1000 ∨ 0x5000 ≤ off ∧ off < 0x8000)) ∧
      (∃ i, p64.limbs ≤ i ∧ i < 1024 ∧ 0x1008 = bankOffset .a + 4 * i) ∧ ∃ i, i < p64.limbs ∧ 0x4004 = 0x4000 + 4 * i :=
  ⟨by decide, ⟨2, by decide⟩, 1, by decide⟩
theorem witness_ReadsAndOperandWritesAreIdempotent : ∃ (s t : State) (addr size : Nat), perform (.read addr size) s = .next t :=
  ⟨reset64, _, p64.base, 4, rfl⟩
theorem witness_HostWritesDoNotReachTheRunningCommand : ∃ (s t : State) (v : Nat), s.seq ≠ .idle ∧ rngAnswer v s = .next t :=
  ⟨inMrt .mrDraw 97 3 5 1 0 0, _, 2, by decide, rfl⟩
theorem witness_WrbigLoadsTheWholeOperand : ∃ (s : State) (v : Nat), OperandsBounded s ∧ v < 2 ^ s.params.nbits ∧
    s.agenda = Script.wrbig s.params .m v :=
  ⟨{ loaded 0 0 4294967311 with agenda := Script.wrbig p64 .m 7 }, 7, by decide⟩
theorem witness_RdbigReturnsTheOperand : ∃ (s : State) (b : Bank), OperandsBounded s ∧ s.agenda = Script.rdbig s.params b :=
  ⟨{ loaded 0 0 4294967311 with agenda := Script.rdbig p64 .m }, .m, by decide⟩
theorem witness_StaleWorkingRegistersAreUnobservable : ∃ s s' : State, s.seq = .idle ∧ view s = view s' ∧ s ≠ s' :=
  ⟨loaded 65 17 3233, { loaded 65 17 3233 with miu := (inMiu 3 0 (-1) 3 1 (-2) 9).miu }, by decide⟩
theorem witness_ResetTurnClearsTheBlock : ∃ (s : State) (rest : List Event), s.agenda = .reset :: rest ∧ s.seq = .mrDraw :=
  ⟨{ inMrt .mrDraw 97 3 5 7 0 0 with agenda := [.reset] }, [], by decide⟩
theorem witness_StepKeepsRegistersBounded : ∃ s t : State, RegistersBounded s ∧ step s = .next t :=
  ⟨inMrt .mrDraw 97 3 5 1 0 0, _, ⟨by decide, by decide, by decide, by decide, by decide, by decide, by decide, by decide, by decide,
    by decide⟩, rfl⟩
theorem witness_StepKeepsTheFlagsConsistent : ∃ s t : State, VisibleConsistent s ∧ step s = .next t :=
  ⟨inMee 3233 65 17 1 .host, _, by decide, rfl⟩
theorem witness_ParametersNeverChange : ∃ s t : State, step s = .next t := ⟨reset64, _, rfl⟩
/-- Leaving `IDLE`, a step while busy, an answered draw, a change of `SEQ` while busy. -/
theorem witness_SequencerFollowsTheTransitionTable :
    (∃ s t : State, step s = .next t ∧ s.seq = .idle ∧ t.seq ≠ .idle) ∧
      (∃ s : State, s.seq ≠ .idle ∧ s.seq ≠ .mrDraw) ∧ (∃ (s t : State) (v : Nat), s.seq = .mrDraw ∧ rngAnswer v s = .next t) ∧
      ∃ s t : State, step s = .next t ∧ s.seq ≠ .idle ∧ t.seq ≠ s.seq :=
  ⟨⟨(loaded 65 17 3233).withFetchWord 32 1, _, rfl, rfl, by decide⟩, ⟨inMee 3233 65 17 1 .host, by decide⟩,
    ⟨inMrt .mrDraw 97 3 5 1 0 0, _, 2, rfl, rfl⟩, inMee 3233 1785 0 2790 .host, _, rfl, by decide, by decide⟩
theorem witness_ResultIsWrittenOnlyBySuccess : ∃ s t : State, step s = .next t ∧ t.r ≠ s.r :=
  ⟨inMee 3233 1785 0 2790 .host, _, rfl, by decide⟩
/-- `PRIME` set, and `PRIME` cleared by an accept. -/
theorem witness_PrimeIsWrittenOnlyByTheTester :
    (∃ s t : State, step s = .next t ∧ t.prime ≠ s.prime ∧ t.prime = true) ∧
      ∃ s t : State, step s = .next t ∧ t.prime ≠ s.prime ∧ t.prime = false :=
  ⟨⟨inMrt .mrClassify 2 0 0 20 0 0, _, rfl, by decide, by decide⟩,
    { (loaded 0 0 3).withFetchWord 32 3 with prime := true, done := true, cmdreg := 3 }, _, rfl, by decide, by decide⟩
theorem witness_OperandsAreWrittenOnlyByTheHost : ∃ s t : State, step s = .next t ∧
    (∀ addr size w rest, s.agenda ≠ .write addr size w :: rest) ∧ ∀ rest, s.agenda ≠ .reset :: rest :=
  ⟨{ loaded 1 2 3 with agenda := [.answer 2] }, _, rfl, by simp, by simp⟩

end Sys2Proof.Tests
end

/-! PROOFS. The statements of 10_state.md: the flags stay consistent, the STATUS word shows them, reset leaves the table. -/

namespace Sys2Proof.Proofs.Flags

open Sys2Proof Sys2Proof.Machine Sys2Proof.Safety

/-! ### The command that runs (R19, R24) -/

/-- The command the sequencer runs, told from `SEQ` and `CALLER`; none in `IDLE`. `commandMatches_iff` ties it to the model. -/
def runningCommand (s : State) : Option Instr :=
  match s.seq with
  | .idle => none
  | .meLoop =>
    match s.mee.caller with
    | .host => some .modexp
    | .mrt => some .mrtest
  | .miLoop => some .modinv
  | .mrClassify | .mrDecomp | .mrRound | .mrDraw | .mrCheck | .mrSquare => some .mrtest

section runningCommand

variable {s : State}

@[simp] theorem runningCommand_idle (h : s.seq = .idle) : runningCommand s = none := by simp [runningCommand, h]
@[simp] theorem runningCommand_meLoop_host (h : s.seq = .meLoop) (hc : s.mee.caller = .host) :
    runningCommand s = some .modexp := by simp [runningCommand, h, hc]
@[simp] theorem runningCommand_meLoop_mrt (h : s.seq = .meLoop) (hc : s.mee.caller = .mrt) :
    runningCommand s = some .mrtest := by simp [runningCommand, h, hc]
@[simp] theorem runningCommand_miLoop (h : s.seq = .miLoop) : runningCommand s = some .modinv := by simp [runningCommand, h]
@[simp] theorem runningCommand_mrClassify (h : s.seq = .mrClassify) : runningCommand s = some .mrtest := by
  simp [runningCommand, h]
@[simp] theorem runningCommand_mrDecomp (h : s.seq = .mrDecomp) : runningCommand s = some .mrtest := by simp [runningCommand, h]
@[simp] theorem runningCommand_mrRound (h : s.seq = .mrRound) : runningCommand s = some .mrtest := by simp [runningCommand, h]
@[simp] theorem runningCommand_mrDraw (h : s.seq = .mrDraw) : runningCommand s = some .mrtest := by simp [runningCommand, h]
@[simp] theorem runningCommand_mrCheck (h : s.seq = .mrCheck) : runningCommand s = some .mrtest := by simp [runningCommand, h]
@[simp] theorem runningCommand_mrSquare (h : s.seq = .mrSquare) : runningCommand s = some .mrtest := by simp [runningCommand, h]

/-- While the sequencer is not idle it runs one of the three commands. -/
theorem exists_runningCommand (h : s.seq ≠ .idle) : ∃ i, runningCommand s = some i := by
  cases hq : s.seq with
  | idle => exact absurd hq h
  | meLoop => cases hc : s.mee.caller <;> simp [hq, hc]
  | miLoop | mrClassify | mrDecomp | mrRound | mrDraw | mrCheck | mrSquare => simp [hq]

theorem ne_idle_of_runningCommand {i : Instr} (h : runningCommand s = some i) : s.seq ≠ .idle := by
  intro hq
  simp [hq] at h

/-- The invariant's clause about `CMDREG`: it holds the word of the command that runs. -/
theorem commandMatches_iff : CommandMatches s ↔ ∀ i, runningCommand s = some i → s.cmdreg = encode i := by
  have hexp : encode .modexp = 1 := rfl
  have hinv : encode .modinv = 2 := rfl
  have htest : encode .mrtest = 3 := rfl
  cases hq : s.seq with
  | meLoop => cases hc : s.mee.caller <;> simp [CommandMatches, InRounds, hq, hc, hexp, htest]
  | idle | miLoop | mrClassify | mrDecomp | mrRound | mrDraw | mrCheck | mrSquare =>
    simp [CommandMatches, InRounds, hq, hinv, htest]

end runningCommand

/-! ### The two consistent kinds of state after an accept (R28) -/

/-- Command `i` runs, and every flag is as its accept left it. -/
structure Running (i : Instr) (s : State) : Prop where
  command  : runningCommand s = some i
  word     : s.cmdreg = encode i
  notDone  : s.done = false
  noError  : s.err = 0
  notPrime : s.prime = false

/-- A command has completed; only MRTEST can have left `PRIME` set. -/
structure Completed (s : State) : Prop where
  idle      : s.seq = .idle
  done      : s.done = true
  codeUsed  : ErrCodeUsed s
  primeOnly : s.prime = true → s.err = 0 ∧ s.cmdreg = encode .mrtest

section

variable {i : Instr} {s t : State}

theorem Running.visibleConsistent (h : Running i s) : VisibleConsistent s := by
  obtain ⟨hrun, hword, hd, he, hp⟩ := h
  have hq := ne_idle_of_runningCommand hrun
  refine ⟨⟨fun _ => hd, fun h => absurd he h, by simp [hp], by simp [busy, hq]⟩, .inl he, commandMatches_iff.mpr ?_⟩
  intro j hj
  cases hrun.symm.trans hj
  exact hword

theorem Completed.visibleConsistent (h : Completed s) : VisibleConsistent s := by
  obtain ⟨hq, hd, hcode, hp⟩ := h
  refine ⟨⟨by simp [busy, hq], fun _ => ⟨hd, by simp [busy, hq]⟩, fun h => ⟨hd, hp h⟩, by simp [hd]⟩, hcode,
    commandMatches_iff.mpr ?_⟩
  simp [hq]

/-- In a busy consistent state a command runs with clean flags (R28 (a) to (c)). -/
theorem running_of_visibleConsistent (h : VisibleConsistent s) (hq : s.seq ≠ .idle) : ∃ i, Running i s := by
  obtain ⟨⟨hbusy, herr, hprime, -⟩, -, hcmd⟩ := h
  obtain ⟨i, hrun⟩ := exists_runningCommand hq
  have hd : s.done = false := hbusy (by simp [busy, hq])
  have he : s.err = 0 := by_contra fun h => Bool.false_ne_true (hd.symm.trans (herr h).1)
  have hp : s.prime = false := Bool.eq_false_iff.mpr fun h => Bool.false_ne_true (hd.symm.trans (hprime h).1)
  exact ⟨i, hrun, commandMatches_iff.mp hcmd i hrun, hd, he, hp⟩

/-- A step inside a command: neither the command nor a flag changes. -/
theorem Running.visibleConsistent_of_eq {j : Option Instr} (h : Running i s) (hfrom : runningCommand s = j)
    (hto : runningCommand t = j) (hcmd : t.cmdreg = s.cmdreg) (hdone : t.done = s.done) (herr : t.err = s.err)
    (hprime : t.prime = s.prime) : VisibleConsistent t :=
  Running.visibleConsistent (i := i)
    ⟨hto.trans (hfrom.symm.trans h.command), hcmd.trans h.word, hdone.trans h.notDone, herr.trans h.noError,
      hprime.trans h.notPrime⟩

/-! ### The completions (R158, R161) -/

/-- The block raises three of the five error kinds (R151). -/
theorem visibleConsistent_raiseError {k : ErrorKind}
    (hk : k = .invalidModulus ∨ k = .noModularInverse ∨ k = .illegalCommand) (hp : s.prime = false) :
    VisibleConsistent (raiseError k s) := by
  refine Completed.visibleConsistent ⟨rfl, rfl, ?_, by simp [hp]⟩
  rcases hk with rfl | rfl | rfl <;> simp [ErrCodeUsed, errorCode]

theorem Running.visibleConsistent_completeWithResult (h : Running i s) (v : Nat) : VisibleConsistent (completeWithResult v s) :=
  Completed.visibleConsistent ⟨rfl, rfl, .inl h.noError, by simp [h.notPrime]⟩

theorem Running.visibleConsistent_completeWithPrime (h : Running i s) (hrun : runningCommand s = some .mrtest) (b : Bool) :
    VisibleConsistent (completeWithPrime b s) := by
  cases h.command.symm.trans hrun
  exact Completed.visibleConsistent ⟨rfl, rfl, .inl h.noError, fun _ => ⟨h.noError, h.word⟩⟩

/-! ### The sequencer's steps (R25) -/

theorem Running.visibleConsistent_meeStep (h : Running i s) (hq : s.seq = .meLoop) : VisibleConsistent (meeStep s) := by
  rcases meeStep_cases s with ⟨-, ht⟩ | ⟨-, -, ht⟩ | ⟨-, hc, ht⟩ <;> rw [ht]
  · exact h.visibleConsistent_of_eq rfl rfl rfl rfl rfl rfl
  · exact h.visibleConsistent_completeWithResult _
  · exact h.visibleConsistent_of_eq (runningCommand_meLoop_mrt hq hc) (runningCommand_mrCheck rfl) rfl rfl rfl rfl

theorem Running.visibleConsistent_miuStep (h : Running i s) : VisibleConsistent (miuStep s) := by
  rcases miuStep_cases s with ⟨-, ht⟩ | ⟨-, -, ht⟩ | ⟨-, -, ht⟩ <;> rw [ht]
  · exact h.visibleConsistent_of_eq rfl rfl rfl rfl rfl rfl
  · exact h.visibleConsistent_completeWithResult _
  · exact visibleConsistent_raiseError (.inr (.inl rfl)) h.notPrime

theorem Running.visibleConsistent_mrtClassify (h : Running i s) (hq : s.seq = .mrClassify) :
    VisibleConsistent (mrtClassify s) := by
  rcases mrtClassify_cases s with ⟨b, ht, -⟩ | ⟨-, -, ht⟩ <;> rw [ht]
  · exact h.visibleConsistent_completeWithPrime (runningCommand_mrClassify hq) b
  · exact h.visibleConsistent_of_eq (runningCommand_mrClassify hq) (runningCommand_mrDecomp rfl) rfl rfl rfl rfl

theorem Running.visibleConsistent_mrtDecomp (h : Running i s) (hq : s.seq = .mrDecomp) : VisibleConsistent (mrtDecomp s) := by
  rcases mrtDecomp_cases s with ⟨-, ht⟩ | ⟨-, ht⟩ <;> rw [ht]
  · exact h.visibleConsistent_of_eq rfl rfl rfl rfl rfl rfl
  · exact h.visibleConsistent_of_eq (runningCommand_mrDecomp hq) (runningCommand_mrRound rfl) rfl rfl rfl rfl

theorem Running.visibleConsistent_mrtRound (h : Running i s) (hq : s.seq = .mrRound) : VisibleConsistent (mrtRound s) := by
  rcases mrtRound_cases s with ⟨-, ht⟩ | ⟨-, ht⟩ <;> rw [ht]
  · exact h.visibleConsistent_completeWithPrime (runningCommand_mrRound hq) true
  · exact h.visibleConsistent_of_eq (runningCommand_mrRound hq) (runningCommand_mrDraw rfl) rfl rfl rfl rfl

theorem Running.visibleConsistent_mrtDraw (h : Running i s) (hq : s.seq = .mrDraw) (v : Nat) :
    VisibleConsistent (mrtDraw v s) :=
  h.visibleConsistent_of_eq (runningCommand_mrDraw hq) (runningCommand_meLoop_mrt rfl rfl) rfl rfl rfl rfl

theorem Running.visibleConsistent_mrtCheck (h : Running i s) (hq : s.seq = .mrCheck) : VisibleConsistent (mrtCheck s) := by
  rcases mrtCheck_cases s with ⟨-, ht⟩ | ⟨-, ht⟩ <;> rw [ht]
  · exact h.visibleConsistent_of_eq (runningCommand_mrCheck hq) (runningCommand_mrRound rfl) rfl rfl rfl rfl
  · exact h.visibleConsistent_of_eq (runningCommand_mrCheck hq) (runningCommand_mrSquare rfl) rfl rfl rfl rfl

theorem Running.visibleConsistent_mrtSquare (h : Running i s) (hq : s.seq = .mrSquare) : VisibleConsistent (mrtSquare s) := by
  rcases mrtSquare_cases s with ⟨-, ht⟩ | ⟨-, t, rfl, ⟨-, ht⟩ | ⟨-, ht⟩⟩ <;> rw [ht]
  · exact h.visibleConsistent_completeWithPrime (runningCommand_mrSquare hq) false
  · exact h.visibleConsistent_of_eq (runningCommand_mrSquare hq) (runningCommand_mrRound rfl) rfl rfl rfl rfl
  · exact h.visibleConsistent_of_eq rfl rfl rfl rfl rfl rfl

theorem sequencerStep_keeps_visibleConsistent (h : VisibleConsistent s) : VisibleConsistent (sequencerStep s) := by
  by_cases hidle : s.seq = .idle
  · rwa [sequencerStep_idle hidle]
  obtain ⟨i, hi⟩ := running_of_visibleConsistent h hidle
  rcases sequencerStep_cases s with ⟨-, ht⟩ | ⟨hq, ht⟩ | ⟨-, ht⟩ | ⟨hq, ht⟩ | ⟨hq, ht⟩ | ⟨hq, ht⟩ | ⟨hq, ht⟩ | ⟨hq, ht⟩
    <;> rw [ht]
  · exact h
  · exact hi.visibleConsistent_meeStep hq
  · exact hi.visibleConsistent_miuStep
  · exact hi.visibleConsistent_mrtClassify hq
  · exact hi.visibleConsistent_mrtDecomp hq
  · exact hi.visibleConsistent_mrtRound hq
  · exact hi.visibleConsistent_mrtCheck hq
  · exact hi.visibleConsistent_mrtSquare hq

/-! ### The accept (R66, R67) -/

theorem modexpAccept_visibleConsistent (s : State) : VisibleConsistent (modexpAccept (acceptCommon (encode .modexp) s)) := by
  by_cases hm : (acceptCommon (encode .modexp) s).m = 0
  · rw [modexpAccept_zero hm]
    exact visibleConsistent_raiseError (.inl rfl) rfl
  · rw [modexpAccept_pos hm]
    exact Running.visibleConsistent (i := .modexp) ⟨rfl, rfl, rfl, rfl, rfl⟩

theorem modinvAccept_visibleConsistent (s : State) : VisibleConsistent (modinvAccept (acceptCommon (encode .modinv) s)) := by
  by_cases hm : (acceptCommon (encode .modinv) s).m = 0
  · rw [modinvAccept_zero hm]
    exact visibleConsistent_raiseError (.inl rfl) rfl
  · rw [modinvAccept_pos hm]
    exact Running.visibleConsistent (i := .modinv) ⟨rfl, rfl, rfl, rfl, rfl⟩

theorem mrtestAccept_visibleConsistent (s : State) : VisibleConsistent (mrtestAccept (acceptCommon (encode .mrtest) s)) :=
  Running.visibleConsistent (i := .mrtest) ⟨rfl, rfl, rfl, rfl, rfl⟩

theorem exec_keeps_visibleConsistent (h : VisibleConsistent s) (hx : exec i s = .next t) : VisibleConsistent t := by
  rw [exec_eq] at hx
  cases hx
  by_cases hq : s.seq = .idle
  · rw [acceptWord_idle hq]
    cases i with
    | modexp => exact modexpAccept_visibleConsistent s
    | modinv => exact modinvAccept_visibleConsistent s
    | mrtest => exact mrtestAccept_visibleConsistent s
  · rwa [acceptWord_busy hq]

theorem acceptIllegal_keeps_visibleConsistent (w : Word) (h : VisibleConsistent s) : VisibleConsistent (acceptIllegal w s) := by
  unfold acceptIllegal
  by_cases hq : s.seq = .idle
  · rw [acceptWord_idle hq]
    exact visibleConsistent_raiseError (.inr (.inr rfl)) rfl
  · rwa [acceptWord_busy hq]

/-! ### The turns (R51) -/

/-- A register write touches no field the invariant speaks of (R44). -/
theorem regWrite_keeps_visibleConsistent (g : Reg) (w : Word) (h : VisibleConsistent s) :
    VisibleConsistent (regWrite g w s) := by
  rcases regWrite_cases g w s with ht | ht | ⟨_, ht⟩ | ⟨_, ht⟩ | ⟨_, ht⟩ <;> rw [ht] <;> exact h

theorem writeReg_keeps_visibleConsistent {g : Reg} {w : Word} (h : VisibleConsistent s) (hw : writeReg g w s = .next t) :
    VisibleConsistent t := by
  by_cases hg : g = .cmd
  · subst hg
    rw [writeReg_cmd] at hw
    rcases writeCommand_cases w s with ⟨i, -, hx⟩ | ⟨_, -, hx⟩ <;> rw [hx] at hw
    · exact exec_keeps_visibleConsistent h hw
    · cases hw
      exact acceptIllegal_keeps_visibleConsistent w h
  · rw [writeReg_of_ne hg] at hw
    cases hw
    exact regWrite_keeps_visibleConsistent g w h

theorem rngAnswer_keeps_visibleConsistent {v : Nat} (h : VisibleConsistent s) (hv : rngAnswer v s = .next t) :
    VisibleConsistent t := by
  rcases rngAnswer_next hv with ⟨-, rfl⟩ | ⟨hq, -, -, rfl⟩
  · exact h
  · obtain ⟨i, hi⟩ := running_of_visibleConsistent h (by simp [hq])
    exact hi.visibleConsistent_mrtDraw hq v

/-- Reset leaves the state of R28 (d): idle, before the first accept. -/
theorem resetBlock_visibleConsistent (s : State) : VisibleConsistent (resetBlock s) := by
  have hidle : runningCommand (resetBlock s) = none := runningCommand_idle rfl
  refine ⟨⟨by simp [State.resetOf], by simp [State.resetOf], by simp [State.resetOf], fun _ _ => ?_⟩, .inl rfl,
    commandMatches_iff.mpr (by simp [hidle])⟩
  exact ⟨rfl, rfl, rfl, rfl, rfl, rfl, rfl⟩

theorem perform_keeps_visibleConsistent {v : Event} (h : VisibleConsistent s) (hp : perform v s = .next t) :
    VisibleConsistent t := by
  rcases perform_next hp with ⟨_, _, _, -, -, hw⟩ | ⟨_, _, -, -, rfl⟩ | ⟨_, -, hv⟩ | ⟨-, rfl⟩ | ⟨-, rfl⟩
  · exact writeReg_keeps_visibleConsistent h hw
  · exact h
  · exact rngAnswer_keeps_visibleConsistent h hv
  · exact resetBlock_visibleConsistent s
  · exact sequencerStep_keeps_visibleConsistent h

end

/-- Settles O55: a busy state runs a command with clean flags until a completion; a host write
other than to `CMD` touches no flag. -/
theorem stepKeepsTheFlagsConsistent : Obligations.StepKeepsTheFlagsConsistent := by
  intro s t h hstep
  rcases step_next hstep with ⟨-, rfl⟩ | ⟨v, rest, -, hp⟩
  · exact sequencerStep_keeps_visibleConsistent h
  · have hrest : VisibleConsistent { s with agenda := rest } := h
    exact perform_keeps_visibleConsistent hrest hp

/-! ### Accesses at an offset of the map (R41 to R45) -/

section

variable (s : State) {off : Nat}

theorem busOffset_base_add (p : Config.Params) (h : off < 0x8000) (hal : off % 4 = 0) :
    busOffset p (p.base + off) 4 = .ok off := by
  simp [busOffset_ok_iff, accessWf, h, hal]

theorem memRead_base_add (h : off < 0x8000) (hal : off % 4 = 0) :
    memRead (s.params.base + off) 4 s = .ok (regRead (regAt s.params.limbs off) s) := by
  simp [memRead, busOffset_base_add s.params h hal]

theorem memWrite_base_add (w : Word) (h : off < 0x8000) (hal : off % 4 = 0) :
    memWrite (s.params.base + off) 4 w s = writeReg (regAt s.params.limbs off) w s := by
  simp [memWrite, busOffset_base_add s.params h hal]

@[simp] theorem regAt_status (limbs : Nat) : regAt limbs 0x0004 = .status := rfl
@[simp] theorem regAt_cap (limbs : Nat) : regAt limbs 0x0010 = .cap := rfl

theorem memRead_status : memRead (s.params.base + 0x0004) 4 s = .ok (statusWord s) :=
  memRead_base_add s (by decide) (by decide)

theorem memRead_cap : memRead (s.params.base + 0x0010) 4 s = .ok (BitVec.ofNat 32 s.params.limbs) :=
  memRead_base_add s (by decide) (by decide)

theorem memWrite_status (w : Word) : memWrite (s.params.base + 0x0004) 4 w s = .next s :=
  memWrite_base_add s w (by decide) (by decide)

end

/-! ### The STATUS word (R20) -/

/-- Bit `i` of four flags packed as `statusWord` packs them. -/
theorem packedFlags_getLsbD (b d e p : Bool) (i : Nat) :
    (BitVec.ofNat 32 (b.toNat + 2 * d.toNat + 4 * e.toNat + 8 * p.toNat)).getLsbD i = [b, d, e, p].getD i false := by
  match i with
  | 0 | 1 | 2 | 3 => revert b d e p; decide
  | i + 4 =>
    have hlt : b.toNat + 2 * d.toNat + 4 * e.toNat + 8 * p.toNat < 2 ^ 4 := by
      have := b.toNat_le; have := d.toNat_le; have := e.toNat_le; have := p.toNat_le
      omega
    have hbit := Nat.testBit_lt_two_pow (Nat.lt_of_lt_of_le hlt (Nat.pow_le_pow_right (by decide) (Nat.le_add_left 4 i)))
    simp [BitVec.getLsbD_ofNat, hbit]

theorem statusWord_getLsbD (s : State) (i : Nat) :
    (statusWord s).getLsbD i = [busy s, s.done, errf s, s.prime].getD i false :=
  packedFlags_getLsbD _ _ _ _ i

/-- Settles O36: the word's bits are the list of the four flags, and offset 0x0004 of the map is `STATUS`. -/
theorem statusShowsTheFlags : Obligations.StatusShowsTheFlags := by
  intro s
  refine ⟨memRead_status s, ?_, ?_, ?_, ?_, fun i hi => ?_, memWrite_status s⟩ <;> rw [statusWord_getLsbD]
  · simp [busy]
  · rfl
  · simp [errf]
  · rfl
  · exact List.getD_eq_default _ _ hi

/-! ### Reset (R35) -/

theorem statusWord_resetOf (p : Config.Params) : statusWord (State.resetOf p) = 0 := rfl

/-- Settles O51: each register is read off `State.resetOf`, the two views by their own lemmas. -/
theorem resetLeavesTheTable : Obligations.ResetLeavesTheTable := by
  refine ⟨?_, rfl, rfl⟩
  rintro p _ rfl
  have hcap : memRead (p.base + 0x0010) 4 (State.resetOf p) = .ok (BitVec.ofNat 32 p.limbs) := memRead_cap (State.resetOf p)
  exact ⟨rfl, rfl, rfl, rfl, rfl, rfl, rfl, rfl, rfl, rfl, rfl, rfl, rfl, rfl, rfl, rfl, rfl, rfl, rfl, rfl, rfl, rfl, rfl, rfl,
    rfl, rfl, rfl, rfl, rfl, statusWord_resetOf p, hcap⟩

end Sys2Proof.Proofs.Flags

/-! PROOFS. The statements of 20_memory.md: what a host read returns, and the offsets whose writes are ignored. -/

namespace Sys2Proof.Proofs.Memory

open Sys2Proof Sys2Proof.Machine Sys2Proof.Proofs.Flags

/-! ### The register map at the banks and between them (R41, R46) -/

section

variable {limbs i off : Nat}

theorem limbs_le (p : Config.Params) : p.limbs ≤ 1024 := p.topLimb.isLt

/-- The first `L` limb offsets of a bank name its limbs. -/
theorem regAt_bankOffset_add (b : Bank) (hL : limbs ≤ 1024) (hi : i < limbs) :
    regAt limbs (bankOffset b + 4 * i) = .limb b i := by
  have hindex (o : Nat) : (o + 4 * i - o) / 4 = i := by omega
  cases b <;> simp (disch := omega) only [regAt, bankOffset, if_neg, if_pos, hindex]

/-- Past `CAP`, an offset inside no bank's `L` limbs is reserved. -/
theorem regAt_eq_reserved (hlow : 0x0014 ≤ off) (hout : ∀ b, ¬(bankOffset b ≤ off ∧ off < bankOffset b + 4 * limbs)) :
    regAt limbs off = .reserved := by
  have ha := hout .a
  have he := hout .e
  have hm := hout .m
  have hr := hout .r
  simp only [bankOffset] at ha he hm hr
  simp (disch := omega) only [regAt, if_neg]

theorem le_bankOffset (b : Bank) : 0x1000 ≤ bankOffset b := by cases b <;> decide
theorem bankOffset_le (b : Bank) : bankOffset b ≤ 0x4000 := by cases b <;> decide

/-- Two banks start 0x1000 bytes apart at least, the room of 1024 limbs. -/
theorem bankOffset_apart {b c : Bank} (h : b ≠ c) :
    bankOffset b + 0x1000 ≤ bankOffset c ∨ bankOffset c + 0x1000 ≤ bankOffset b := by
  revert h
  cases b <;> cases c <;> decide

/-- An offset of R46: below the banks, above them, or in a bank from limb `L` on. -/
theorem regAt_of_reserved (hL : limbs ≤ 1024)
    (h : 0x0014 ≤ off ∧ off < 0x1000 ∨ 0x5000 ≤ off ∧ off < 0x8000 ∨
      ∃ b i, limbs ≤ i ∧ i < 1024 ∧ off = bankOffset b + 4 * i) : regAt limbs off = .reserved := by
  rcases h with h | h | ⟨b, i, hi, hmax, rfl⟩
  · refine regAt_eq_reserved h.1 fun c => ?_
    have := le_bankOffset c
    omega
  · refine regAt_eq_reserved (by omega) fun c => ?_
    have := bankOffset_le c
    omega
  · refine regAt_eq_reserved (by have := le_bankOffset b; omega) fun c => ?_
    by_cases hbc : b = c
    · subst hbc; omega
    · have := bankOffset_apart hbc
      omega

end

/-! ### What the map gives for a read and a write (R43, R47) -/

section

variable (s : State) {off : Nat} (h : off < 0x8000) (hal : off % 4 = 0)

include h hal

theorem perform_read_base_add :
    perform (.read (s.params.base + off) 4) s =
      .next { s with readWords := regRead (regAt s.params.limbs off) s :: s.readWords } := by
  simp only [perform, memRead_base_add s h hal]

theorem perform_write_base_add (w : Word) :
    perform (.write (s.params.base + off) 4 w) s = writeReg (regAt s.params.limbs off) w s :=
  memWrite_base_add s w h hal

end

/-- Settles O42: a reserved offset names `.reserved`, and `regWrite` keeps the state at it and at every read-only register. -/
theorem reservedAndReadOnlyIgnoreWrites : Obligations.ReservedAndReadOnlyIgnoreWrites := by
  intro s off w hal
  have hL := limbs_le s.params
  refine ⟨fun hres => ?_, fun hro => ?_⟩
  · have hoff : off < 0x8000 := by
      rcases hres with h | h | ⟨b, i, -, hi, rfl⟩
      · omega
      · exact h.2
      · have := bankOffset_le b
        omega
    rw [memRead_base_add s hoff hal, perform_write_base_add s hoff hal, regAt_of_reserved hL hres]
    exact ⟨rfl, rfl⟩
  · rcases hro with rfl | rfl | rfl | ⟨i, hi, rfl⟩
    · exact memWrite_status s w
    · exact perform_write_base_add s (by decide) (by decide) w
    · exact perform_write_base_add s (by decide) (by decide) w
    · rw [perform_write_base_add s (by omega) hal, show 0x4000 = bankOffset .r from rfl, regAt_bankOffset_add .r hL hi]
      rfl

/-- Settles O38: the lines of R43 are those of `regAt`, each with the word `regRead` gives for the register it names. -/
theorem hostReadFollowsTheMap : Obligations.HostReadFollowsTheMap := by
  rintro s off _ rfl hoff hal
  refine ⟨_, perform_read_base_add s hoff hal, ?_⟩
  simp only [regAt, apply_ite (regRead · s)]
  rfl

end Sys2Proof.Proofs.Memory

/-! PROOFS. The statements of 30_encoding.md: what a word written to `CMD` does, in `IDLE` and while a command runs. -/

namespace Sys2Proof.Proofs.Encoding

open Sys2Proof Sys2Proof.Machine Sys2Proof.Proofs.Flags Sys2Proof.Proofs.Memory

/-! ### The words of the commands (R61 to R64) -/

section

variable {w : Word} {i : Instr}

/-- A word is its two fields (R61). -/
theorem rsvField_append_opField (w : Word) : rsvField w ++ opField w = w :=
  BitVec.extractLsb'_append_extractLsb'_eq_extractLsb' rfl |>.trans BitVec.extractLsb'_eq_self

theorem decode_encode (i : Instr) : decode (encode i) = .command i := by cases i <;> decide

/-- The word that decodes as a command is the command's own: its `RSV` is 0 and its `OP` the opcode (R62, R63). -/
theorem eq_encode_of_decode_eq_command (h : decode w = .command i) : w = encode i := by
  unfold decode at h
  split at h
  · cases h
  · next hrsv =>
    have hop : opField w = opcode i := by
      split at h <;> cases h <;> exact BitVec.eq_of_toNat_eq ‹_›
    rw [← rsvField_append_opField w, not_not.mp hrsv, hop]
    rfl

theorem decode_eq_command_iff : decode w = .command i ↔ w = encode i :=
  ⟨eq_encode_of_decode_eq_command, fun h => h ▸ decode_encode i⟩

theorem ne_encode (h1 : w ≠ 1) (h2 : w ≠ 2) (h3 : w ≠ 3) (i : Instr) : w ≠ encode i := by
  cases i with
  | modexp => exact h1
  | modinv => exact h2
  | mrtest => exact h3

end

/-! ### The write of a word (R44, R66, R67) -/

section

variable {w : Word} {s : State}

theorem writeCommand_encode (i : Instr) (s : State) : writeCommand (encode i) s = exec i s := by
  simp only [writeCommand, decode_encode]

theorem writeCommand_illegal (h : ∀ i, w ≠ encode i) (s : State) : writeCommand w s = .next (acceptIllegal w s) := by
  rcases writeCommand_cases w s with ⟨i, hi, -⟩ | ⟨_, -, hw⟩
  · exact absurd (decode_eq_command_iff.mp hi) (h i)
  · exact hw

theorem exec_busy (h : s.seq ≠ .idle) (i : Instr) : exec i s = .next s := by
  rw [exec_eq, acceptWord_busy h]

theorem writeCommand_busy (h : s.seq ≠ .idle) (w : Word) : writeCommand w s = .next s := by
  rcases writeCommand_cases w s with ⟨i, -, hw⟩ | ⟨_, -, hw⟩ <;> rw [hw]
  · exact exec_busy h i
  · rw [acceptIllegal, acceptWord_busy h]

/-- Offset 0 of the map is `CMD`. -/
theorem perform_write_cmd (w : Word) (s : State) : perform (.write s.params.base 4 w) s = writeCommand w s :=
  perform_write_base_add s (off := 0x0000) (by decide) (by decide) w

theorem memRead_cmd (s : State) : memRead s.params.base 4 s = .ok s.cmdreg :=
  memRead_base_add s (off := 0x0000) (by decide) (by decide)

end

/-! ### The accept, one equation per case (R66) -/

section

variable {s : State} (hq : s.seq = .idle)

include hq

/-- An error raised at the accept leaves `SEQ` in `IDLE`, so only `CMDREG` and the flags change (R158). -/
theorem raiseError_acceptCommon (k : ErrorKind) (w : Word) :
    raiseError k (acceptCommon w s) = { s with cmdreg := w, done := true, err := errorCode k, prime := false } := by
  simp only [raiseError, acceptCommon, ← hq]

theorem exec_modexp_idle : exec .modexp s = .next (modexpAccept (acceptCommon 1 s)) :=
  congrArg Host.Outcome.next (acceptWord_idle hq)

theorem exec_modinv_idle : exec .modinv s = .next (modinvAccept (acceptCommon 2 s)) :=
  congrArg Host.Outcome.next (acceptWord_idle hq)

theorem exec_modexp_idle_zero (hm : s.m = 0) :
    exec .modexp s = .next { s with cmdreg := 1, done := true, err := 1, prime := false } := by
  rw [exec_modexp_idle hq, modexpAccept_zero (s := acceptCommon 1 s) hm, raiseError_acceptCommon hq]
  rfl

theorem exec_modexp_idle_pos (hm : s.m ≠ 0) :
    exec .modexp s = .next { s with
      cmdreg := 1, done := false, err := 0, prime := false, seq := .meLoop
      mee := { mod := s.m, acc := s.a % s.m, expr := s.e, res := 1 % s.m, caller := .host } } := by
  have hmod (a : Nat) : Substrate.mod a s.m = a % s.m := Substrate.mod_of_pos (Nat.pos_of_ne_zero hm)
  rw [exec_modexp_idle hq, modexpAccept_pos (s := acceptCommon 1 s) hm, ← hmod, ← hmod]
  rfl

theorem exec_modinv_idle_zero (hm : s.m = 0) :
    exec .modinv s = .next { s with cmdreg := 2, done := true, err := 1, prime := false } := by
  rw [exec_modinv_idle hq, modinvAccept_zero (s := acceptCommon 2 s) hm, raiseError_acceptCommon hq]
  rfl

theorem exec_modinv_idle_pos (hm : s.m ≠ 0) :
    exec .modinv s = .next { s with
      cmdreg := 2, done := false, err := 0, prime := false, seq := .miLoop
      miu := { r0 := s.a, r1 := s.m, s0 := 1, s1 := 0, t0 := 0, t1 := 1, mn := s.m } } := by
  rw [exec_modinv_idle hq, modinvAccept_pos (s := acceptCommon 2 s) hm]
  rfl

theorem exec_mrtest_idle :
    exec .mrtest s = .next { s with
      cmdreg := 3, done := false, err := 0, prime := false, seq := .mrClassify
      mrt := { s.mrt with nc := s.m, rndleft := s.rounds } } :=
  congrArg Host.Outcome.next (acceptWord_idle hq)

theorem writeCommand_illegal_idle {w : Word} (hw : ∀ i, w ≠ encode i) :
    writeCommand w s = .next { s with cmdreg := w, done := true, err := 5, prime := false } := by
  rw [writeCommand_illegal hw, acceptIllegal, acceptWord_idle hq, raiseError_acceptCommon hq]
  rfl

end

/-- Settles O6: each of the three commands' words runs its command's accept, any other word the illegal one. -/
theorem acceptActsByTheWord : Obligations.AcceptActsByTheWord := by
  intro w s hq
  by_cases h1 : w = 1
  · subst h1
    rw [if_pos rfl]
    refine (writeCommand_encode .modexp s).trans ?_
    split
    · next hm => exact exec_modexp_idle_zero hq hm
    · next hm => exact exec_modexp_idle_pos hq hm
  by_cases h2 : w = 2
  · subst h2
    rw [if_neg h1, if_pos rfl]
    refine (writeCommand_encode .modinv s).trans ?_
    split
    · next hm => exact exec_modinv_idle_zero hq hm
    · next hm => exact exec_modinv_idle_pos hq hm
  by_cases h3 : w = 3
  · subst h3
    rw [if_neg h1, if_neg h2, if_pos rfl]
    exact (writeCommand_encode .mrtest s).trans (exec_mrtest_idle hq)
  · rw [if_neg h1, if_neg h2, if_neg h3]
    exact writeCommand_illegal_idle hq (ne_encode h1 h2 h3)

/-- Settles O7: the word is no command's, so its write is the illegal accept, and the word stands in `CMDREG`. -/
theorem illegalWordCompletesAtOnce : Obligations.IllegalWordCompletesAtOnce := by
  intro w s h1 h2 h3 hq
  refine ⟨_, ?_, rfl, memRead_cmd _⟩
  rw [perform_write_cmd]
  exact writeCommand_illegal_idle hq (ne_encode h1 h2 h3)

/-- Settles O8: legal or not, a word reaches `CMD` through `acceptWord`, which keeps a busy state. -/
theorem busyCommandWriteIsDropped : Obligations.BusyCommandWriteIsDropped := by
  intro s hq
  refine ⟨fun w => ?_, exec_busy hq⟩
  rw [perform_write_cmd]
  exact writeCommand_busy hq w

end Sys2Proof.Proofs.Encoding

/-! PROOFS. The statements of 41_modexp.md: MODEXP's accept, the engine's step and its two ends, and what a whole run computes. -/

namespace Sys2Proof.Proofs.Modexp

open Sys2Proof Sys2Proof.Machine Sys2Proof.Machine.Substrate Sys2Proof.Safety Sys2Proof.Proofs.Encoding

/-! ### A block the host leaves alone (R25, R51) -/

section

variable {s : State}

theorem step_of_agenda_nil (ha : s.agenda = []) : step s = .next (sequencerStep s) := by
  simp only [step, nextTurn, ha]

/-- The sequencer puts no turn on the agenda and takes none off. -/
theorem sequencerStep_agenda (s : State) : (sequencerStep s).agenda = s.agenda := by
  rcases sequencerStep_cases s with
    ⟨-, h⟩ | ⟨-, h⟩ | ⟨-, h⟩ | ⟨-, h⟩ | ⟨-, h⟩ | ⟨-, h⟩ | ⟨-, h⟩ | ⟨-, h⟩ <;> rw [h]
  · rcases meeStep_cases s with ⟨-, h⟩ | ⟨-, -, h⟩ | ⟨-, -, h⟩ <;> simp [h]
  · rcases miuStep_cases s with ⟨-, h⟩ | ⟨-, -, h⟩ | ⟨-, -, h⟩ <;> simp [h]
  · rcases mrtClassify_cases s with ⟨b, h, -⟩ | ⟨-, -, h⟩ <;> simp [h]
  · rcases mrtDecomp_cases s with ⟨-, h⟩ | ⟨-, h⟩ <;> simp [h]
  · rcases mrtRound_cases s with ⟨-, h⟩ | ⟨-, h⟩ <;> simp [h]
  · rcases mrtCheck_cases s with ⟨-, h⟩ | ⟨-, h⟩ <;> simp [h]
  · rcases mrtSquare_cases s with ⟨-, h⟩ | ⟨-, t, rfl, ⟨-, h⟩ | ⟨-, h⟩⟩ <;> simp [h]

/-- With nothing on the agenda the machine's steps are the sequencer's. -/
theorem runSteps_eq_iterate (k : Nat) (ha : s.agenda = []) : runSteps k s = .next (sequencerStep^[k] s) := by
  induction k generalizing s with
  | zero => rfl
  | succ k ih =>
    simp only [runSteps, step_of_agenda_nil ha, Function.iterate_succ_apply]
    exact ih ((sequencerStep_agenda s).trans ha)

end

/-! ### One step of the engine (R98 to R100) -/

section

variable {s : State}

theorem meeLoop_of_pos {k : Mee} (hmod : 0 < k.mod) :
    meeLoop k = { k with
      res := if k.expr % 2 = 1 then k.res * k.acc % k.mod else k.res
      acc := k.acc * k.acc % k.mod
      expr := k.expr / 2 } := by
  simp only [meeLoop, mulmod_of_pos hmod, bit0, shr1]

variable (hq : s.seq = .meLoop)

include hq

theorem sequencerStep_engine_loop (hexpr : s.mee.expr ≠ 0) : sequencerStep s = { s with mee := meeLoop s.mee } :=
  (sequencerStep_meLoop hq).trans (if_pos hexpr)

theorem sequencerStep_engine_host (hexpr : s.mee.expr = 0) (hc : s.mee.caller = .host) :
    sequencerStep s = { s with r := s.mee.res, done := true, seq := .idle } := by
  simp [hq, meeStep, hexpr, hc, completeWithResult]

theorem sequencerStep_engine_mrt (hexpr : s.mee.expr = 0) (hc : s.mee.caller = .mrt) :
    sequencerStep s = { s with mrt := { s.mrt with x := s.mee.res }, seq := .mrCheck } := by
  simp [hq, meeStep, hexpr, hc]

end

/-! ### The loop invariant of R101, as the value of the engine's registers -/

/-- The engine's registers after `k` loop steps from its start on `(b, x, n)`: `ACC = b^(2^k) mod n`, `EXPR` the bits of `x` not
yet consumed, `RES` the power of `b` to the bits consumed. `meeLoop_engineAfter` ties it to the model. -/
def engineAfter (b x n : Nat) (c : Caller) (k : Nat) : Mee where
  mod := n
  acc := b ^ 2 ^ k % n
  expr := x / 2 ^ k
  res := b ^ (x % 2 ^ k) % n
  caller := c

section

variable {b x n k : Nat} {c : Caller}

/-- The start of R97 and R130. -/
theorem engineAfter_zero : engineAfter b x n c 0 = { mod := n, acc := b % n, expr := x, res := 1 % n, caller := c } := by
  simp [engineAfter, Nat.mod_one]

/-- The multiply of R98: the bit `k` of the exponent joins the bits consumed. -/
theorem pow_mod_two_pow_succ :
    b ^ (x % 2 ^ (k + 1)) % n =
      if x / 2 ^ k % 2 = 1 then b ^ (x % 2 ^ k) % n * (b ^ 2 ^ k % n) % n else b ^ (x % 2 ^ k) % n := by
  rw [Nat.mod_pow_succ, pow_add]
  rcases Nat.mod_two_eq_zero_or_one (x / 2 ^ k) with hbit | hbit
  · simp [hbit]
  · simp [hbit, Nat.mul_mod]

theorem meeLoop_engineAfter (hn : 0 < n) : meeLoop (engineAfter b x n c k) = engineAfter b x n c (k + 1) := by
  have hsquare : b ^ 2 ^ k % n * (b ^ 2 ^ k % n) % n = b ^ 2 ^ (k + 1) % n := by
    rw [← Nat.mul_mod, ← pow_add, pow_succ, mul_two]
  have hshift : x / 2 ^ k / 2 = x / 2 ^ (k + 1) := by rw [Nat.div_div_eq_div_mul, pow_succ]
  conv_rhs => rw [engineAfter, ← hsquare, ← hshift, pow_mod_two_pow_succ]
  exact meeLoop_of_pos hn

/-- Bits of the exponent are left exactly before step `bitlen(x)`. -/
theorem engineAfter_expr_ne_zero (hk : k < bitlen x) : (engineAfter b x n c k).expr ≠ 0 := by
  have hx : 2 ^ k ≤ x := by rwa [← not_lt, ← bitlen_le_iff, not_le]
  exact (Nat.div_pos hx (by positivity)).ne'

theorem engineAfter_bitlen : engineAfter b x n c (bitlen x) =
    { mod := n, acc := b ^ 2 ^ bitlen x % n, expr := 0, res := b ^ x % n, caller := c } := by
  have hx := lt_two_pow_bitlen x
  simp only [engineAfter, Nat.div_eq_of_lt hx, Nat.mod_eq_of_lt hx]

/-! ### The engine's run, for either caller (R101, R131) -/

variable {s : State} (hq : s.seq = .meLoop) (hn : 0 < n) (hs : s.mee = engineAfter b x n c 0)

include hq hn hs

/-- Up to `bitlen(x)` steps the engine stays in its loop, and nothing but its registers changes. -/
theorem iterate_engine (hk : k ≤ bitlen x) : sequencerStep^[k] s = { s with mee := engineAfter b x n c k } := by
  induction k with
  | zero => rw [← hs]; rfl
  | succ k ih =>
    rw [Function.iterate_succ_apply', ih (Nat.le_of_lt hk), ← meeLoop_engineAfter hn]
    exact sequencerStep_engine_loop hq (engineAfter_expr_ne_zero hk)

/-- The host's run ends with the power in `R` (R99). -/
theorem iterate_engine_host (hc : c = .host) : sequencerStep^[bitlen x + 1] s =
    { s with mee := engineAfter b x n c (bitlen x), r := b ^ x % n, done := true, seq := .idle } := by
  rw [Function.iterate_succ_apply', iterate_engine hq hn hs le_rfl, engineAfter_bitlen]
  exact sequencerStep_engine_host hq rfl hc

end

/-! ### The obligations -/

/-- Settles O9: a nonzero `M` passes the validation. -/
theorem modexpStartsTheEngine : Obligations.ModexpStartsTheEngine :=
  fun _ hq hm => exec_modexp_idle_pos hq hm

/-- Settles O10: the accept raises `InvalidModulus` before any working register is written. -/
theorem modexpRefusesZeroModulus : Obligations.ModexpRefusesZeroModulus :=
  fun _ hq hm => exec_modexp_idle_zero hq hm

/-- Settles O11: bits are left, so the step is the loop step, its substrate requests answered for a positive modulus. -/
theorem engineLoopStep : Obligations.EngineLoopStep := by
  intro s hq hexpr hmod
  rw [sequencerStep_engine_loop hq hexpr, meeLoop_of_pos hmod]

/-- Settles O12: no bit is left, and `CALLER` decides which end it is. -/
theorem engineEndsForItsCaller : Obligations.EngineEndsForItsCaller :=
  fun _ hq hexpr => ⟨sequencerStep_engine_host hq hexpr, sequencerStep_engine_mrt hq hexpr⟩

/-- Settles O13: the accept starts the engine on `(A, E, M)`, and the block left alone runs it to its end for the host. -/
theorem modexpComputesThePower : Obligations.ModexpComputesThePower := by
  intro s hq hm ha
  have hpos : 0 < s.m := Nat.pos_of_ne_zero hm
  refine ⟨_, exec_modexp_idle_pos hq hm, fun k hk => ?_, engineAfter s.a s.e s.m .host (bitlen s.e), ?_⟩
  · refine ⟨_, runSteps_eq_iterate k ha, ?_⟩
    rw [iterate_engine rfl hpos engineAfter_zero.symm hk]
    exact ⟨rfl, rfl, rfl, rfl⟩
  · refine Eq.trans (runSteps_eq_iterate _ ha) ?_
    rw [iterate_engine_host rfl hpos engineAfter_zero.symm rfl, hq]

end Sys2Proof.Proofs.Modexp


/-! PROOFS. The statements of 42_modinv.md: MODINV's accept, and the inverse unit's step and its two ends. -/

namespace Sys2Proof.Proofs.Modinv

open Sys2Proof Sys2Proof.Machine Sys2Proof.Machine.Substrate Sys2Proof.Proofs.Encoding

/-! ### One step of the inverse unit (R113 to R115) -/

/-- The loop step with its substrate requests answered: the remainders exchange as in Euclid's algorithm (R113). -/
theorem miuLoop_of_pos {k : Miu} (hr : 0 < k.r1) :
    miuLoop k = { k with
      r0 := k.r1, r1 := k.r0 % k.r1
      s0 := k.s1, s1 := k.s0 - (k.r0 / k.r1 : Nat) * k.s1
      t0 := k.t1, t1 := k.t0 - (k.r0 / k.r1 : Nat) * k.t1 } := by
  simp only [miuLoop, sub_div_mul hr, submul_eq]
  rw [div_of_pos hr]

section

variable {s : State} (hq : s.seq = .miLoop)

include hq

theorem sequencerStep_inverse_loop (hr : s.miu.r1 ≠ 0) : sequencerStep s = { s with miu := miuLoop s.miu } :=
  (sequencerStep_miLoop hq).trans (if_pos hr)

theorem sequencerStep_inverse_found (hr : s.miu.r1 = 0) (hg : s.miu.r0 = 1) :
    sequencerStep s = { s with r := emod s.miu.s0 s.miu.mn, done := true, seq := .idle } :=
  (sequencerStep_miLoop hq).trans <| (if_neg (not_not.mpr hr)).trans (if_pos hg)

theorem sequencerStep_inverse_none (hr : s.miu.r1 = 0) (hg : s.miu.r0 ≠ 1) :
    sequencerStep s = { s with err := 2, done := true, seq := .idle } :=
  (sequencerStep_miLoop hq).trans <| (if_neg (not_not.mpr hr)).trans (if_neg hg)

end

/-! ### The obligations -/

/-- Settles O15: a nonzero `M` passes the validation, and `A` goes to `R0` as it stands. -/
theorem modinvStartsTheUnit : Obligations.ModinvStartsTheUnit :=
  fun _ hq hm => exec_modinv_idle_pos hq hm

/-- Settles O16: the accept raises `InvalidModulus` before it looks at `A`. -/
theorem modinvRefusesZeroModulus : Obligations.ModinvRefusesZeroModulus :=
  fun _ hq hm => exec_modinv_idle_zero hq hm

/-- Settles O17: a remainder is left, so the step is the loop step, with the quotient and remainder of a nonzero divisor. -/
theorem inverseUnitLoopStep : Obligations.InverseUnitLoopStep := by
  intro s hq hr
  have hrem : ((s.miu.r0 % s.miu.r1 : Nat) : Int) = s.miu.r0 - (s.miu.r0 / s.miu.r1 : Nat) * s.miu.r1 := by
    rw [eq_sub_iff_add_eq]
    exact_mod_cast Nat.mod_add_div' s.miu.r0 s.miu.r1
  refine ⟨_, _, rfl, hrem, rfl, ?_⟩
  rw [sequencerStep_inverse_loop hq hr, miuLoop_of_pos (Nat.pos_of_ne_zero hr)]

/-- Settles O18: the value written is `S0 emod MN`, which R80's two properties determine. -/
theorem inverseUnitEndsWithTheInverse : Obligations.InverseUnitEndsWithTheInverse :=
  fun _ hq hr hg hmn => ⟨_, emod_lt hmn, dvd_sub_emod hmn, sequencerStep_inverse_found hq hr hg⟩

/-- Settles O19: the gcd is not 1, so the step is the error completion with `NoModularInverse`. -/
theorem inverseUnitEndsWithoutInverse : Obligations.InverseUnitEndsWithoutInverse :=
  fun _ hq hr hg => sequencerStep_inverse_none hq hr hg

end Sys2Proof.Proofs.Modinv

/-! PROOFS. The statements of 43_mrtest.md: MRTEST's accept, the tester's steps, the engine's run for it, and what a whole run of
MRTEST answers and leaves. -/

namespace Sys2Proof.Proofs.Mrtest

open Sys2Proof Sys2Proof.Machine Sys2Proof.Machine.Substrate Sys2Proof.Safety
open Sys2Proof.Proofs.Flags Sys2Proof.Proofs.Encoding Sys2Proof.Proofs.Modexp

/-! ### The single steps (R126 to R133) -/

/-- Settles O23: the accept of MRTEST has no case. -/
theorem mrtestStartsTheTester : Obligations.MrtestStartsTheTester := fun _ hq => exec_mrtest_idle hq

/-- Settles O24: the four lines in their order; `NC` is at least 4 where the last one forms `NC - 1`. -/
theorem classifyStep : Obligations.ClassifyStep := by
  intro s hq
  rw [sequencerStep_mrClassify hq, mrtClassify]
  simp only [even_iff]
  split
  · rfl
  split
  · rfl
  split
  · rfl
  · rw [sub_of_le (by omega)]

section

variable {s : State}

theorem sequencerStep_decompose (hq : s.seq = .mrDecomp) :
    sequencerStep s =
      if s.mrt.d % 2 = 0 then { s with mrt := { s.mrt with d := s.mrt.d / 2, scnt := s.mrt.scnt + 1 } }
      else { s with seq := .mrRound } := by
  rw [sequencerStep_mrDecomp hq]
  rcases mrtDecomp_cases s with ⟨heven, h⟩ | ⟨hodd, h⟩
  · rw [h, if_pos heven]
  · rw [h, if_neg (by omega)]

theorem sequencerStep_round_last (hq : s.seq = .mrRound) (hr : s.mrt.rndleft = 0) :
    sequencerStep s = { s with prime := true, done := true, seq := .idle } :=
  (sequencerStep_mrRound hq).trans (if_pos hr)

theorem sequencerStep_round_draw (hq : s.seq = .mrRound) (hr : s.mrt.rndleft ≠ 0) :
    sequencerStep s = { s with seq := .mrDraw } :=
  (sequencerStep_mrRound hq).trans (if_neg hr)

/-- The passing of a round lowers `RNDLEFT` without a wrap when a round is left (R77, R132). -/
theorem mrtPass_of_ne_zero (hr : s.mrt.rndleft ≠ 0) :
    mrtPass s = { s with mrt := { s.mrt with rndleft := s.mrt.rndleft - 1 }, seq := .mrRound } := by
  have hpos : 1 ≤ s.mrt.rndleft.toNat := Nat.pos_of_ne_zero (BitVec.toNat_ne.mp hr)
  have hlow : BitVec.ofNat 16 (s.mrt.rndleft.toNat - 1) = s.mrt.rndleft - 1 := by bv_omega
  rw [mrtPass, sub_of_le hpos, hlow]

end

/-- Settles O26: the request's upper bound is formed from an `NC` of at least 5. -/
theorem roundStartStep : Obligations.RoundStartStep := by
  intro s hq
  refine ⟨sequencerStep_round_last hq, fun hr hn => ?_⟩
  have hstep := sequencerStep_round_draw hq hr
  refine ⟨hstep, ?_, by omega⟩
  rw [hstep, rngRequest, if_pos rfl, sub_of_le (by simp only; omega)]

/-- Settles O30: `X + 1 = NC` is `X = NC - 1` for a positive `NC`. -/
theorem checkStep : Obligations.CheckStep := by
  intro s hq hr hc hn
  have hlast : s.mrt.x + 1 = s.mrt.nc ↔ s.mrt.x = s.mrt.nc - 1 := by omega
  rw [sequencerStep_mrCheck hq, mrtCheck, mrtPass_of_ne_zero hr, sub_of_le hc]
  simp only [hlast]

/-- Settles O31: the value compared with `NC - 1` is the one written to `X`. -/
theorem squareStep : Obligations.SquareStep := by
  intro s hq hr hn
  have hsquare : mulmod s.mrt.x s.mrt.x s.mrt.nc = s.mrt.x * s.mrt.x % s.mrt.nc := mulmod_of_pos hn
  rw [sequencerStep_mrSquare hq]
  rcases mrtSquare_cases s with ⟨h0, h⟩ | ⟨h0, t, rfl, ⟨hx, h⟩ | ⟨hx, h⟩⟩
  · rw [h, if_pos h0]; rfl
  all_goals rw [hsquare] at hx h; rw [h, if_neg h0]
  · rw [if_pos ((eq_tsub_iff_add_eq_of_le hn).mpr hx)]
    exact mrtPass_of_ne_zero hr
  · rw [if_neg (mt (eq_tsub_iff_add_eq_of_le hn).mp hx)]

/-! ### The decomposition (R128) -/

section

variable {s : State} {k c d : Nat}

theorem iterate_halvings (hq : s.seq = .mrDecomp) (hd : s.mrt.d = 2 ^ k * d) :
    sequencerStep^[k] s = { s with mrt := { s.mrt with d := d, scnt := s.mrt.scnt + k } } := by
  induction k generalizing s with
  | zero =>
    have hd : s.mrt.d = d := by simpa using hd
    subst hd; rfl
  | succ k ih =>
    have hdouble : s.mrt.d = 2 * (2 ^ k * d) := by rw [hd]; ring
    have hhalf : s.mrt.d / 2 = 2 ^ k * d := by omega
    rw [Function.iterate_succ_apply, sequencerStep_decompose hq, if_pos (by omega)]
    refine (ih (s := { s with mrt := { s.mrt with d := s.mrt.d / 2, scnt := s.mrt.scnt + 1 } }) hq hhalf).trans ?_
    simp only [Nat.add_assoc, Nat.add_comm 1 k]

/-- From the classify step of an odd `NC ≥ 5`, `SCNT` halvings and the leaving step. -/
theorem iterate_decompose (hq : s.seq = .mrClassify) (hn : 5 ≤ s.mrt.nc) (hodd : s.mrt.nc % 2 = 1)
    (hdec : Decomposes s.mrt.nc c d) :
    sequencerStep^[c + 2] s = { s with mrt := { s.mrt with d := d, scnt := c }, seq := .mrRound } := by
  obtain ⟨hnc, hd⟩ := hdec
  have hstart : sequencerStep s = { s with mrt := { s.mrt with d := s.mrt.nc - 1, scnt := 0 }, seq := .mrDecomp } := by
    rw [classifyStep s hq, if_neg (by omega), if_neg (by omega), if_neg (by omega)]
  rw [Function.iterate_succ_apply, hstart, Function.iterate_succ_apply', iterate_halvings (d := d) rfl (by simp only; omega),
    sequencerStep_decompose rfl, if_neg (by simp only; omega), Nat.zero_add]

/-- `2^c * d` is as long as `d` and `c` bits more. -/
theorem bitlen_two_pow_mul (hd : d ≠ 0) : bitlen (2 ^ c * d) = c + bitlen d := by
  induction c with
  | zero => simp
  | succ c ih =>
    have hne : 2 ^ (c + 1) * d ≠ 0 := by positivity
    have hshr : shr1 (2 ^ (c + 1) * d) = 2 ^ c * d := by
      rw [shr1, pow_succ, Nat.mul_right_comm, Nat.mul_div_cancel _ two_pos]
    rw [bitlen_shr1 hne, hshr, ih]; omega

variable {n : Nat}

theorem one_le_scnt (hodd : n % 2 = 1) (hdec : Decomposes n c d) : 1 ≤ c := by
  obtain ⟨hnc, hd⟩ := hdec
  by_contra hc
  obtain rfl : c = 0 := by omega
  omega

variable (hn : 5 ≤ n) (hodd : n % 2 = 1) (hdec : Decomposes n c d)

include hodd hn hdec

/-- `n` is odd, so it is as long as `n - 1`. -/
theorem bitlen_of_decomposes : bitlen n = c + bitlen d := by
  obtain ⟨hnc, hd⟩ := hdec
  have hhalf : shr1 n = shr1 (2 ^ c * d) := by unfold shr1; omega
  rw [← bitlen_two_pow_mul (by omega), bitlen_shr1 (by omega), hhalf, ← bitlen_shr1 (by omega)]

theorem scnt_lt_bitlen : c + 1 ≤ bitlen n := by
  have hd : d ≠ 0 := by have := hdec.2; omega
  rw [bitlen_of_decomposes hn hodd hdec, bitlen_shr1 hd]
  omega

end

/-- Settles O25: every `NC - 1` above 0 is a power of two times an odd number, and the halvings find it. -/
theorem decomposeWritesTwoPowerTimesOdd : Obligations.DecomposeWritesTwoPowerTimesOdd := by
  refine ⟨fun s hq => sequencerStep_decompose hq, fun s hq hn hodd => ?_⟩
  obtain ⟨c, d, hd, hcd⟩ := Nat.exists_eq_two_pow_mul_odd (n := s.mrt.nc - 1) (by omega)
  have hdec : Decomposes s.mrt.nc c d := ⟨by omega, Nat.odd_iff.mp hd⟩
  have hlen := scnt_lt_bitlen hn hodd hdec
  exact ⟨c, d, hdec, one_le_scnt hodd hdec, hd.pos, by omega, iterate_decompose hq hn hodd hdec⟩

/-! ### The draw and the engine's run for the tester (R130, R131) -/

/-- The tester's run of the engine ends with the power in `X` (R100). -/
theorem iterate_engine_mrt {b x n : Nat} {s : State} (hq : s.seq = .meLoop) (hn : 0 < n)
    (hs : s.mee = engineAfter b x n .mrt 0) :
    sequencerStep^[bitlen x + 1] s =
      { s with mee := engineAfter b x n .mrt (bitlen x), mrt := { s.mrt with x := b ^ x % n }, seq := .mrCheck } := by
  rw [Function.iterate_succ_apply', iterate_engine hq hn hs le_rfl, engineAfter_bitlen]
  exact sequencerStep_engine_mrt hq rfl rfl

/-- The engine starts on the answer itself, which is below `NC`. -/
theorem mrtDraw_mee_of_inRange {s : State} {v : Nat} (hv : InDrawRange s.mrt.nc v) :
    (mrtDraw v s).mee = { mod := s.mrt.nc, acc := v, expr := s.mrt.d, res := 1, caller := .mrt } := by
  obtain ⟨hlo, hhi⟩ := hv
  rw [mrtDraw_mee, mod_of_pos (by omega), mod_of_pos (by omega), Nat.mod_eq_of_lt (by omega), Nat.mod_eq_of_lt (by omega)]

theorem iterate_mrtDraw {s : State} {v : Nat} (hv : InDrawRange s.mrt.nc v) :
    ∃ mee, sequencerStep^[bitlen s.mrt.d + 1] (mrtDraw v s) =
      { s with mrt := { s.mrt with basev := v, x := v ^ s.mrt.d % s.mrt.nc }, seq := .mrCheck, mee := mee } := by
  obtain ⟨hlo, hhi⟩ := hv
  have hn : 0 < s.mrt.nc := by omega
  have hstart : (mrtDraw v s).mee = engineAfter v s.mrt.d s.mrt.nc .mrt 0 := by
    rw [engineAfter_zero, mrtDraw_mee, mod_of_pos hn, mod_of_pos hn]
  exact ⟨_, iterate_engine_mrt rfl hn hstart⟩

theorem rngAnswer_of_inRange {s : State} {v : Nat} (hq : s.seq = .mrDraw) (hv : InDrawRange s.mrt.nc v) :
    rngAnswer v s = .next (mrtDraw v s) := by
  rw [rngAnswer, if_neg (not_not.mpr hq), if_pos hv]

theorem rngAnswer_of_not_inRange {s : State} {v : Nat} (hq : s.seq = .mrDraw) (hv : ¬ InDrawRange s.mrt.nc v) :
    rngAnswer v s = .refused (.drawOutOfRange v) := by
  rw [rngAnswer, if_neg (not_not.mpr hq), if_neg hv]

/-- Settles O27: an answer is taken exactly when it is in the range, and its engine run is that of R101 for the tester. -/
theorem drawStartsTheEngine : Obligations.DrawStartsTheEngine := by
  intro s v hq
  refine ⟨fun hlo hhi => ?_, fun hout => rngAnswer_of_not_inRange hq (by omega)⟩
  refine ⟨mrtDraw v s, rngAnswer_of_inRange hq ⟨hlo, hhi⟩, ?_, iterate_mrtDraw ⟨hlo, hhi⟩⟩
  rw [← mrtDraw_mee_of_inRange ⟨hlo, hhi⟩]
  rfl

/-! ### A block left alone whose draws are answered (R167) -/

section drive

variable {s u : State} {draws rest : List Nat} {k n v : Nat}

theorem drive_answer (hq : s.seq = .mrDraw) (hv : InDrawRange s.mrt.nc v) :
    drive (k + 1) (v :: rest) s = drive k rest (mrtDraw v { s with agenda := [] }) := by
  have hstep : step { s with agenda := [.answer v] } = .next (mrtDraw v { s with agenda := [] }) :=
    rngAnswer_of_inRange (s := { s with agenda := [] }) hq hv
  rw [drive.eq_2 s k v rest hq, hstep]

theorem drive_refused (hq : s.seq = .mrDraw) (hv : ¬ InDrawRange s.mrt.nc v) : drive (k + 1) (v :: rest) s = none := by
  have hstep : step { s with agenda := [.answer v] } = .refused (.drawOutOfRange v) :=
    rngAnswer_of_not_inRange (s := { s with agenda := [] }) hq hv
  rw [drive.eq_2 s k v rest hq, hstep]

theorem drive_sequencer (hq : s.seq = .mrDraw → draws = []) :
    drive (k + 1) draws s = drive k draws (sequencerStep { s with agenda := [] }) := by
  have hstep : step { s with agenda := [] } = .next (sequencerStep { s with agenda := [] }) := step_of_agenda_nil rfl
  rw [drive]
  · rw [hstep]
  · rintro v rest hdraw rfl
    cases hq hdraw

/-- All that the next step of a driven run can be: the first draw taken, a breach of the source's contract, a sequencer step. -/
theorem drive_succ_cases (draws : List Nat) (s : State) :
    (∃ v rest, s.seq = .mrDraw ∧ draws = v :: rest ∧
        ∀ k, drive (k + 1) draws s = drive k rest (mrtDraw v { s with agenda := [] })) ∨
      (∀ k, drive (k + 1) draws s = none) ∨
      ∀ k, drive (k + 1) draws s = drive k draws (sequencerStep { s with agenda := [] }) := by
  by_cases hq : s.seq = .mrDraw
  · cases draws with
    | nil => exact .inr (.inr fun _ => drive_sequencer fun _ => rfl)
    | cons v rest =>
      by_cases hv : InDrawRange s.mrt.nc v
      · exact .inl ⟨v, rest, hq, rfl, fun _ => drive_answer hq hv⟩
      · exact .inr (.inl fun _ => drive_refused hq hv)
  · exact .inr (.inr fun _ => drive_sequencer fun h => absurd h hq)

/-- The induction over a driven run: what every sequencer step keeps and every answered draw keeps holds at its end. -/
theorem drive_induction {P : State → List Nat → Prop}
    (hseq : ∀ s draws, P s draws → P (sequencerStep { s with agenda := [] }) draws)
    (hdraw : ∀ s v rest, s.seq = .mrDraw → P s (v :: rest) → P (mrtDraw v { s with agenda := [] }) rest)
    (h : P s draws) (hrun : drive k draws s = some (u, rest)) : P u rest := by
  induction k generalizing s draws with
  | zero => cases hrun; exact h
  | succ k ih =>
    rcases drive_succ_cases draws s with ⟨v, rest, hq, rfl, hnext⟩ | hnext | hnext <;> rw [hnext] at hrun
    · exact ih (hdraw s v rest hq h) hrun
    · cases hrun
    · exact ih (hseq s draws h) hrun

/-- Two driven runs one after the other. -/
theorem drive_add (h : drive k draws s = some (u, rest)) : drive (k + n) draws s = drive n rest u := by
  induction k generalizing s draws with
  | zero => cases h; rw [Nat.zero_add]
  | succ k ih =>
    rw [Nat.add_right_comm]
    rcases drive_succ_cases draws s with ⟨v, rest, -, -, hnext⟩ | hnext | hnext <;> rw [hnext] at h ⊢
    · exact ih h
    · cases h
    · exact ih h

/-- A driven run takes any turns off the agenda first. -/
theorem drive_clear_agenda (s : State) : drive (k + 1) draws s = drive (k + 1) draws { s with agenda := [] } := rfl

variable (ha : s.agenda = [])

include ha

theorem agenda_nil_eta : { s with agenda := [] } = s := by rw [← ha]

/-- Sequencer steps that do not end in `MR_DRAW` take no answer: `MR_DRAW` is left by an answer only. -/
theorem drive_iterate (hu : sequencerStep^[k] s = u) (hne : u.seq ≠ .mrDraw) : drive k draws s = some (u, draws) := by
  induction k generalizing s with
  | zero => cases hu; rfl
  | succ k ih =>
    have hq : s.seq ≠ .mrDraw := fun hq => hne (by rw [← hu, Function.iterate_fixed (sequencerStep_mrDraw hq), hq])
    rw [drive_sequencer fun h => absurd h hq, agenda_nil_eta ha]
    exact ih ((sequencerStep_agenda s).trans ha) hu

theorem drive_idle (hq : s.seq = .idle) : drive k draws s = some (s, draws) :=
  drive_iterate ha (Function.iterate_fixed (sequencerStep_idle hq) k) (by simp [hq])

end drive

/-! ### The arithmetic of a round (R135) -/

/-- One of `x`, `x^2`, `x^4`, … , `q` of them, is `n - 1` modulo `n`: what a round looks for after the engine's run. -/
def ReachesMinusOne (n x q : Nat) : Prop := ∃ j, j < q ∧ x ^ 2 ^ j % n = n - 1

section

variable {n x q : Nat}

theorem not_reachesMinusOne_zero : ¬ ReachesMinusOne n x 0 := fun ⟨_, hj, _⟩ => Nat.not_lt_zero _ hj

/-- One squaring, as a step of the tester makes it. -/
theorem reachesMinusOne_succ : ReachesMinusOne n x (q + 1) ↔ x % n = n - 1 ∨ ReachesMinusOne n (x * x % n) q := by
  have hsquare (j : Nat) : (x * x % n) ^ 2 ^ j % n = x ^ 2 ^ (j + 1) % n := by
    rw [← Nat.pow_mod, ← pow_two, ← pow_mul, ← pow_succ']
  unfold ReachesMinusOne
  simp only [hsquare]
  constructor
  · rintro ⟨_ | j, hj, hx⟩
    · exact .inl (by simpa using hx)
    · exact .inr ⟨j, by omega, hx⟩
  · rintro (hx | ⟨j, hj, hx⟩)
    · exact ⟨0, by omega, by simpa using hx⟩
    · exact ⟨j + 1, by omega, hx⟩

theorem roundPasses_iff {c d a : Nat} :
    RoundPasses n c d a ↔ a ^ d % n = 1 ∨ ReachesMinusOne n (a ^ d % n) c := by
  have hpow (j : Nat) : (a ^ d % n) ^ 2 ^ j % n = a ^ (2 ^ j * d) % n := by
    rw [← Nat.pow_mod, ← pow_mul, Nat.mul_comm d]
  simp only [RoundPasses, ReachesMinusOne, hpow]

end

/-! ### The tester's run, round by round (R129 to R135) -/

/-- The tester stands in `q` with the decomposition of `n` in its registers and `r` rounds left, and the host stays away. -/
structure Testing (n c d r : Nat) (q : SeqState) (s : State) : Prop where
  agenda  : s.agenda = []
  seq     : s.seq = q
  err     : s.err = 0
  nc      : s.mrt.nc = n
  d       : s.mrt.d = d
  scnt    : s.mrt.scnt = c
  rndleft : s.mrt.rndleft.toNat = r

/-- MRTEST has completed with the answer `b`. -/
structure Answered (b : Bool) (s : State) : Prop where
  agenda : s.agenda = []
  seq    : s.seq = .idle
  done   : s.done = true
  err    : s.err = 0
  prime  : s.prime = b

/-- Where a round ends: at the next round's start when it passes, else with the answer 0. -/
def RoundEnds (n c d r : Nat) (passes : Prop) (u : State) : Prop :=
  passes ∧ Testing n c d r .mrRound u ∨ ¬ passes ∧ Answered false u

section

variable {n c d r : Nat} {s : State} {draws rest : List Nat}

theorem Testing.rndleft_ne_zero {q : SeqState} (h : Testing n c d (r + 1) q s) : s.mrt.rndleft ≠ 0 := by
  intro h0
  have := h.rndleft
  simp [h0] at this

theorem Testing.rndleft_pred {q : SeqState} (h : Testing n c d (r + 1) q s) : (s.mrt.rndleft - 1).toNat = r := by
  have := h.rndleft
  bv_omega

/-- A single sequencer step of the test, which takes no answer. -/
theorem Testing.drive_one {q : SeqState} {u : State} (h : Testing n c d r q s) (hu : sequencerStep s = u)
    (hq : q ≠ .mrDraw := by decide) : drive 1 draws s = some (u, draws) := by
  rw [drive_sequencer fun hdraw => absurd (h.seq.symm.trans hdraw) hq, agenda_nil_eta h.agenda, hu]
  rfl

/-- From the round's start to the check: the request, the answer `v` and the engine's run on it (R129 to R131). -/
theorem drive_power {v : Nat} (h : Testing n c d (r + 1) .mrRound s) (hv : InDrawRange n v) :
    ∃ t, drive (bitlen d + 3) (v :: draws) s = some (t, draws) ∧ Testing n c d (r + 1) .mrCheck t ∧
      t.mrt.x = v ^ d % n := by
  have hrequest : drive 1 (v :: draws) s = some ({ s with seq := .mrDraw }, v :: draws) :=
    h.drive_one (sequencerStep_round_draw h.seq h.rndleft_ne_zero)
  obtain ⟨-, -, he, rfl, rfl, hc, hr⟩ := h
  obtain ⟨mee, hpower⟩ := iterate_mrtDraw (s := { s with seq := .mrDraw, agenda := [] }) hv
  have hengine := drive_iterate (draws := draws) rfl hpower (by simp)
  have hanswer := (drive_answer (s := { s with seq := .mrDraw }) (rest := draws) rfl hv).trans hengine
  have hrun := (drive_add hrequest).trans hanswer
  rw [Nat.add_comm 1] at hrun
  exact ⟨_, hrun, ⟨rfl, rfl, he, rfl, rfl, hc, hr⟩, rfl⟩

/-- The squaring steps of a round: at most `SQLEFT` squarings and the step that gives up (R133). -/
theorem drive_squarings (h : Testing n c d (r + 1) .mrSquare s) (hn : 0 < n) :
    ∃ k u, k ≤ s.mrt.sqleft + 1 ∧ drive k draws s = some (u, draws) ∧
      RoundEnds n c d r (ReachesMinusOne n (s.mrt.x * s.mrt.x % n) s.mrt.sqleft) u := by
  generalize hx : s.mrt.x = x
  generalize hq : s.mrt.sqleft = q
  induction q generalizing s x with
  | zero =>
    have hstep := squareStep s h.seq h.rndleft_ne_zero (h.nc ▸ hn)
    rw [if_pos hq] at hstep
    refine ⟨1, _, le_rfl, h.drive_one hstep, .inr ⟨not_reachesMinusOne_zero, ?_⟩⟩
    exact ⟨h.agenda, rfl, rfl, h.err, rfl⟩
  | succ q ih =>
    have hstep := squareStep s h.seq h.rndleft_ne_zero (h.nc ▸ hn)
    rw [if_neg (by omega), hx, hq, h.nc] at hstep
    rw [reachesMinusOne_succ, Nat.mod_mod]
    by_cases hlast : x * x % n = n - 1
    · rw [if_pos hlast] at hstep
      refine ⟨1, _, by omega, h.drive_one hstep, .inl ⟨.inl hlast, ?_⟩⟩
      exact ⟨h.agenda, rfl, h.err, h.nc, h.d, h.scnt, h.rndleft_pred⟩
    · rw [if_neg hlast] at hstep
      have hnext : Testing n c d (r + 1) .mrSquare (sequencerStep s) := by
        rw [hstep]; exact ⟨h.agenda, h.seq, h.err, h.nc, h.d, h.scnt, h.rndleft⟩
      obtain ⟨k, u, hk, hrun, hend⟩ := ih hnext (x * x % n) (by rw [hstep]) (by rw [hstep]; rfl)
      refine ⟨1 + k, u, by omega, (drive_add (h.drive_one rfl)).trans hrun, ?_⟩
      simpa only [hlast, false_or] using hend

variable {v : Nat} (hc : 1 ≤ c)

include hc

/-- The check and the squarings decide `passes(n, v)` from the engine's power (R132, R135). -/
theorem drive_check (h : Testing n c d (r + 1) .mrCheck s) (hn : 0 < n) (hx : s.mrt.x = v ^ d % n) :
    ∃ k u, k ≤ c + 1 ∧ drive k draws s = some (u, draws) ∧ RoundEnds n c d r (RoundPasses n c d v) u := by
  obtain ⟨q, rfl⟩ : ∃ q, c = q + 1 := ⟨c - 1, by omega⟩
  have hstep := checkStep s h.seq h.rndleft_ne_zero (by rw [h.scnt]; exact hc) (h.nc ▸ hn)
  rw [h.nc] at hstep
  rw [roundPasses_iff, reachesMinusOne_succ, Nat.mod_mod, ← hx, ← or_assoc]
  by_cases hpass : s.mrt.x = 1 ∨ s.mrt.x = n - 1
  · rw [if_pos hpass] at hstep
    refine ⟨1, _, by omega, h.drive_one hstep, .inl ⟨.inl hpass, ?_⟩⟩
    exact ⟨h.agenda, rfl, h.err, h.nc, h.d, h.scnt, h.rndleft_pred⟩
  · rw [if_neg hpass, h.scnt] at hstep
    have hnext : Testing n (q + 1) d (r + 1) .mrSquare (sequencerStep s) := by
      rw [hstep]; exact ⟨h.agenda, rfl, h.err, h.nc, h.d, h.scnt, h.rndleft⟩
    have hregs : (sequencerStep s).mrt.x = s.mrt.x ∧ (sequencerStep s).mrt.sqleft = q := by rw [hstep]; exact ⟨rfl, rfl⟩
    obtain ⟨k, u, hk, hrun, hend⟩ := drive_squarings hnext hn
    rw [hregs.1, hregs.2] at hend
    refine ⟨1 + k, u, by omega, (drive_add (h.drive_one rfl)).trans hrun, ?_⟩
    simpa only [hpass, false_or] using hend

/-- One round on the draw `v`: the engine's power, then the check and the squarings. -/
theorem drive_round (h : Testing n c d (r + 1) .mrRound s) (hv : InDrawRange n v) :
    ∃ k u, k ≤ c + bitlen d + 4 ∧ drive k (v :: draws) s = some (u, draws) ∧
      RoundEnds n c d r (RoundPasses n c d v) u := by
  obtain ⟨t, hpower, ht, hx⟩ := drive_power (draws := draws) h hv
  obtain ⟨k, u, hk, hcheck, hend⟩ := drive_check (draws := draws) hc ht (by omega) hx
  exact ⟨bitlen d + 3 + k, u, by omega, (drive_add hpower).trans hcheck, hend⟩

end

/-! ### The verdict (R135) -/

/-- The answer and the draws left, as a function of the draws: what R135 says of `r` rounds. -/
def VerdictOfDraws (n c d r : Nat) (draws : List Nat) (u : State) (rest : List Nat) : Prop :=
  ((∀ v, v ∈ draws.take r → RoundPasses n c d v) ∧ u.prime = true ∧ rest = draws.drop r) ∨
    ∃ j v, j < r ∧ (∀ x, x ∈ draws.take j → RoundPasses n c d x) ∧ draws[j]? = some v ∧
      ¬ RoundPasses n c d v ∧ u.prime = false ∧ rest = draws.drop (j + 1)

section

variable {n c d r v : Nat} {s u : State} {draws rest : List Nat}

theorem verdictOfDraws_zero (hp : u.prime = true) : VerdictOfDraws n c d 0 draws u draws :=
  .inl ⟨by simp, hp, rfl⟩

theorem verdictOfDraws_of_not_passes (hv : ¬ RoundPasses n c d v) (hp : u.prime = false) :
    VerdictOfDraws n c d (r + 1) (v :: draws) u draws :=
  .inr ⟨0, v, by omega, by simp, rfl, hv, hp, rfl⟩

theorem VerdictOfDraws.cons (hv : RoundPasses n c d v) (h : VerdictOfDraws n c d r draws u rest) :
    VerdictOfDraws n c d (r + 1) (v :: draws) u rest := by
  rcases h with ⟨hall, hp, hrest⟩ | ⟨j, w, hj, hall, hw, hfail, hp, hrest⟩
  · exact .inl ⟨by simpa [hv] using hall, hp, hrest⟩
  · exact .inr ⟨j + 1, w, by omega, by simpa [hv] using hall, hw, hfail, hp, hrest⟩

/-- All the rounds: each takes one draw, and the first that does not pass ends the test. -/
theorem drive_rounds (hc : 1 ≤ c) (h : Testing n c d r .mrRound s) (hlen : r ≤ draws.length)
    (hdraws : ∀ v, v ∈ draws → InDrawRange n v) :
    ∃ k b u rest, k ≤ 1 + r * (c + bitlen d + 4) ∧ drive k draws s = some (u, rest) ∧ Answered b u ∧
      VerdictOfDraws n c d r draws u rest := by
  induction r generalizing s draws with
  | zero =>
    have hstep := sequencerStep_round_last h.seq (BitVec.eq_of_toNat_eq h.rndleft)
    exact ⟨1, true, _, draws, by omega, h.drive_one hstep,
      ⟨h.agenda, rfl, rfl, h.err, rfl⟩, verdictOfDraws_zero rfl⟩
  | succ r ih =>
    obtain ⟨v, draws, rfl⟩ := List.exists_cons_of_length_pos (Nat.lt_of_lt_of_le r.succ_pos hlen)
    obtain ⟨hv, hdraws⟩ := List.forall_mem_cons.mp hdraws
    obtain ⟨k, u, hk, hrun, ⟨hpass, hu⟩ | ⟨hfail, hu⟩⟩ := drive_round (draws := draws) hc h hv
    · obtain ⟨k', b, u', rest, hk', hrun', hans, hverdict⟩ := ih hu (Nat.le_of_succ_le_succ hlen) hdraws
      exact ⟨k + k', b, u', rest, by rw [Nat.succ_mul]; omega, (drive_add hrun).trans hrun', hans, hverdict.cons hpass⟩
    · exact ⟨k, false, u, draws, by rw [Nat.succ_mul]; omega, hrun, hu, verdictOfDraws_of_not_passes hfail hu.prime⟩

/-- The classification and the decomposition of an odd `NC ≥ 5`. -/
theorem drive_decompose (hq : s.seq = .mrClassify) (he : s.err = 0) (hn : 5 ≤ s.mrt.nc) (hodd : s.mrt.nc % 2 = 1)
    (hdec : Decomposes s.mrt.nc c d) :
    ∃ t, drive (c + 2) draws s = some (t, draws) ∧ Testing s.mrt.nc c d s.mrt.rndleft.toNat .mrRound t := by
  have hsteps := iterate_decompose (s := { s with agenda := [] }) hq hn hodd hdec
  have hrun := drive_iterate (draws := draws) rfl hsteps (by simp)
  exact ⟨_, (drive_clear_agenda s).trans hrun, rfl, rfl, he, rfl, rfl, rfl, rfl⟩

/-- MRTEST on an odd `NC ≥ 5` from its classify step, with `ROUNDS` in `RNDLEFT`; the block idles until the bound (R190). -/
theorem drive_tester (hq : s.seq = .mrClassify) (he : s.err = 0) (hn : 5 ≤ s.mrt.nc) (hodd : s.mrt.nc % 2 = 1)
    (hdec : Decomposes s.mrt.nc c d) (hlen : s.mrt.rndleft.toNat ≤ draws.length)
    (hdraws : ∀ v, v ∈ draws → InDrawRange s.mrt.nc v) :
    ∃ b u rest, drive (2 + bitlen s.mrt.nc + s.mrt.rndleft.toNat * (bitlen s.mrt.nc + 4)) draws s = some (u, rest) ∧
      Answered b u ∧ VerdictOfDraws s.mrt.nc c d s.mrt.rndleft.toNat draws u rest := by
  obtain ⟨t, hdecompose, ht⟩ := drive_decompose (draws := draws) hq he hn hodd hdec
  obtain ⟨k, b, u, rest, hk, hrounds, hans, hverdict⟩ := drive_rounds (one_le_scnt hodd hdec) ht hlen hdraws
  rw [← bitlen_of_decomposes hn hodd hdec] at hk
  have hscnt := scnt_lt_bitlen hn hodd hdec
  have hrun : drive (c + 2 + k) draws s = some (u, rest) := (drive_add hdecompose).trans hrounds
  obtain ⟨idle, hbound⟩ := Nat.exists_eq_add_of_le
    (show c + 2 + k ≤ 2 + bitlen s.mrt.nc + s.mrt.rndleft.toNat * (bitlen s.mrt.nc + 4) by omega)
  refine ⟨b, u, rest, ?_, hans, hverdict⟩
  rw [hbound, drive_add hrun]
  exact drive_idle hans.agenda hans.seq

end

/-- Settles O32: the classify step answers without a draw, or the rounds answer, one draw each, up to the first that fails. -/
theorem mrtestVerdictOfTheDraws : Obligations.MrtestVerdictOfTheDraws := by
  refine ⟨fun s hq hm => ⟨_, exec_mrtest_idle hq, ?_⟩, fun s draws c d hq hn hodd hlen hdraws hdec => ?_⟩
  · rw [classifyStep _ rfl]
    by_cases hsmall : s.m < 2
    · rw [if_pos hsmall, hq, decide_eq_false (by omega)]
    by_cases hprime : s.m = 2 ∨ s.m = 3
    · rw [if_neg hsmall, if_pos hprime, hq, decide_eq_true hprime]
    · rw [if_neg hsmall, if_neg hprime, if_pos (by simp only; omega), hq, decide_eq_false hprime]
  · obtain ⟨b, u, rest, hrun, hans, hverdict⟩ := drive_tester (draws := draws) (s := { s with
        cmdreg := 3, done := false, err := 0, prime := false, seq := .mrClassify
        mrt := { s.mrt with nc := s.m, rndleft := s.rounds } }) rfl rfl hn hodd hdec hlen hdraws
    exact ⟨_, u, rest, exec_mrtest_idle hq, hrun, hans.seq, hans.done, hans.err, hverdict⟩

/-! ### What MRTEST leaves unchanged (R139, R140) -/

/-- A run of MRTEST accepted in `s` has reached `u`: its frame, and no other command runs. -/
structure TestFrame (s u : State) : Prop where
  a       : u.a = s.a
  e       : u.e = s.e
  m       : u.m = s.m
  r       : u.r = s.r
  rounds  : u.rounds = s.rounds
  miu     : u.miu = s.miu
  cmdreg  : u.cmdreg = 3
  err     : u.err = 0
  command : ∀ i, runningCommand u = some i → i = .mrtest

section

variable {s u : State}

theorem TestFrame.complete (h : TestFrame s u) (b : Bool) : TestFrame s (completeWithPrime b u) :=
  ⟨h.a, h.e, h.m, h.r, h.rounds, h.miu, h.cmdreg, h.err, fun _ hi => nomatch (runningCommand_idle rfl).symm.trans hi⟩

/-- A step to another state of the test: only `SEQ`, the engine's and the tester's registers move. -/
theorem TestFrame.move (h : TestFrame s u) {q : SeqState} {mee : Mee} {mrt : Mrt}
    (hrun : runningCommand { u with seq := q, mee := mee, mrt := mrt } = some .mrtest) :
    TestFrame s { u with seq := q, mee := mee, mrt := mrt } :=
  ⟨h.a, h.e, h.m, h.r, h.rounds, h.miu, h.cmdreg, h.err, fun _ hi => Option.some.inj (hi.symm.trans hrun)⟩

/-- In a run of MRTEST the engine runs for the tester, and the inverse unit does not run. -/
theorem TestFrame.caller (h : TestFrame s u) (hq : u.seq = .meLoop) : u.mee.caller = .mrt := by
  cases hc : u.mee.caller with
  | mrt => rfl
  | host => cases h.command _ (runningCommand_meLoop_host hq hc)

theorem TestFrame.kept_by_step (h : TestFrame s u) : TestFrame s (sequencerStep u) := by
  rcases sequencerStep_cases u with ⟨-, hstep⟩ | ⟨hq, hstep⟩ | ⟨hq, -⟩ | ⟨-, hstep⟩ | ⟨hq, hstep⟩ | ⟨-, hstep⟩ |
    ⟨-, hstep⟩ | ⟨hq, hstep⟩
  · rwa [hstep]
  · rw [hstep]
    have hc := h.caller hq
    rcases meeStep_cases u with ⟨-, hmee⟩ | ⟨-, hhost, -⟩ | ⟨-, -, hmee⟩
    · rw [hmee]; exact h.move (runningCommand_meLoop_mrt hq hc)
    · rw [hc] at hhost; cases hhost
    · rw [hmee]; exact h.move (runningCommand_mrCheck rfl)
  · cases h.command _ (runningCommand_miLoop hq)
  · rw [hstep]
    rcases mrtClassify_cases u with ⟨b, hmrt, -⟩ | ⟨-, -, hmrt⟩ <;> rw [hmrt]
    · exact h.complete b
    · exact h.move (runningCommand_mrDecomp rfl)
  · rw [hstep]
    rcases mrtDecomp_cases u with ⟨-, hmrt⟩ | ⟨-, hmrt⟩ <;> rw [hmrt]
    · exact h.move (runningCommand_mrDecomp hq)
    · exact h.move (runningCommand_mrRound rfl)
  · rw [hstep]
    rcases mrtRound_cases u with ⟨-, hmrt⟩ | ⟨-, hmrt⟩ <;> rw [hmrt]
    · exact h.complete true
    · exact h.move (runningCommand_mrDraw rfl)
  · rw [hstep]
    rcases mrtCheck_cases u with ⟨-, hmrt⟩ | ⟨-, hmrt⟩ <;> rw [hmrt]
    · exact h.move (runningCommand_mrRound rfl)
    · exact h.move (runningCommand_mrSquare rfl)
  · rw [hstep]
    rcases mrtSquare_cases u with ⟨-, hmrt⟩ | ⟨-, t, rfl, ⟨-, hmrt⟩ | ⟨-, hmrt⟩⟩ <;> rw [hmrt]
    · exact h.complete false
    · exact h.move (runningCommand_mrRound rfl)
    · exact h.move (runningCommand_mrSquare hq)

theorem TestFrame.kept_by_draw (h : TestFrame s u) (v : Nat) : TestFrame s (mrtDraw v u) :=
  h.move (runningCommand_meLoop_mrt rfl rfl)

/-- The host's turns are none of the block's state. -/
theorem TestFrame.clear_agenda (h : TestFrame s u) : TestFrame s { u with agenda := [] } :=
  ⟨h.a, h.e, h.m, h.r, h.rounds, h.miu, h.cmdreg, h.err, h.command⟩

/-- No sequencer step starts the engine; while it does not run, its registers stay. -/
theorem sequencerStep_engine_at_rest (hq : u.seq ≠ .meLoop) :
    (sequencerStep u).seq ≠ .meLoop ∧ (sequencerStep u).mee = u.mee := by
  rcases sequencerStep_cases u with ⟨-, h⟩ | ⟨hme, -⟩ | ⟨hmi, h⟩ | ⟨-, h⟩ | ⟨hd, h⟩ | ⟨-, h⟩ | ⟨-, h⟩ | ⟨hs, h⟩
  · rw [h]; exact ⟨hq, rfl⟩
  · exact absurd hme hq
  all_goals rw [h]
  · rcases miuStep_cases u with ⟨-, h⟩ | ⟨-, -, h⟩ | ⟨-, -, h⟩ <;> simp [h, hmi]
  · rcases mrtClassify_cases u with ⟨b, h, -⟩ | ⟨-, -, h⟩ <;> simp [h]
  · rcases mrtDecomp_cases u with ⟨-, h⟩ | ⟨-, h⟩ <;> simp [h, hd]
  · rcases mrtRound_cases u with ⟨-, h⟩ | ⟨-, h⟩ <;> simp [h]
  · rcases mrtCheck_cases u with ⟨-, h⟩ | ⟨-, h⟩ <;> simp [h]
  · rcases mrtSquare_cases u with ⟨-, h⟩ | ⟨-, t, rfl, ⟨-, h⟩ | ⟨-, h⟩⟩ <;> simp [h, hs]

end

/-- The frame of R139 at a moment of a run on `draws` with the answers `rest` not taken: with all of them left, the engine has not
been started. -/
def FrameOnDraws (s : State) (draws : List Nat) (u : State) (rest : List Nat) : Prop :=
  TestFrame s u ∧ rest.length ≤ draws.length ∧ (rest = draws → u.seq ≠ .meLoop ∧ u.mee = s.mee)

section

variable {s u : State} {draws rest : List Nat} {v : Nat}

theorem frameOnDraws_mrtestAccept (s : State) (draws : List Nat) :
    FrameOnDraws s draws (mrtestAccept (acceptCommon 3 s)) draws :=
  ⟨⟨rfl, rfl, rfl, rfl, rfl, rfl, rfl, rfl, fun _ hi => Option.some.inj (hi.symm.trans (runningCommand_mrClassify rfl))⟩,
    le_rfl, fun _ => ⟨by simp, rfl⟩⟩

theorem FrameOnDraws.kept_by_step (h : FrameOnDraws s draws u rest) :
    FrameOnDraws s draws (sequencerStep { u with agenda := [] }) rest := by
  obtain ⟨hframe, hlen, hmee⟩ := h
  refine ⟨hframe.clear_agenda.kept_by_step, hlen, fun hall => ?_⟩
  obtain ⟨hq, hs⟩ := hmee hall
  have hrest := sequencerStep_engine_at_rest (u := { u with agenda := [] }) hq
  exact ⟨hrest.1, hrest.2.trans hs⟩

theorem FrameOnDraws.kept_by_draw (h : FrameOnDraws s draws u (v :: rest)) :
    FrameOnDraws s draws (mrtDraw v { u with agenda := [] }) rest := by
  obtain ⟨hframe, hlen, -⟩ := h
  rw [List.length_cons] at hlen
  exact ⟨hframe.clear_agenda.kept_by_draw v, by omega, fun hall => by subst hall; omega⟩

end

/-- Settles O34: the frame holds at the accept, and every step and every answered draw keeps it. -/
theorem mrtestLeavesOperandsAndResult : Obligations.MrtestLeavesOperandsAndResult := by
  refine fun s draws hq => ⟨_, exec_mrtest_idle hq, fun k u rest hrun => ?_⟩
  obtain ⟨⟨ha, he, hm, hr, hrounds, hmiu, hcmd, herr, -⟩, -, hmee⟩ := drive_induction (P := FrameOnDraws s draws)
    (fun _ _ => FrameOnDraws.kept_by_step) (fun _ _ _ _ => FrameOnDraws.kept_by_draw) (frameOnDraws_mrtestAccept s draws) hrun
  exact ⟨ha, he, hm, hr, hrounds, hmiu, hcmd, herr, fun hall => (hmee hall).2⟩

end Sys2Proof.Proofs.Mrtest

/-! PROOFS. The statements of 60_exceptions.md: the error completion, and the draw that is never answered. -/

namespace Sys2Proof.Proofs.Exceptions

open Sys2Proof Sys2Proof.Machine Sys2Proof.Safety Sys2Proof.Proofs.Encoding Sys2Proof.Proofs.Modexp

/-! ### The error completion (R158) -/

section

variable (k : ErrorKind) (s : State)

/-- Code 0 is kept for "no error" (R151). -/
theorem errorCode_ne_zero : errorCode k ≠ 0 := by cases k <;> decide

@[simp] theorem busy_raiseError : busy (raiseError k s) = false := rfl

@[simp] theorem errf_raiseError : errf (raiseError k s) = true := bne_iff_ne.mpr (errorCode_ne_zero k)

/-- After an error completion `STATUS` shows DONE and ERRF, and the `PRIME` of before. -/
theorem statusWord_raiseError : statusWord (raiseError k s) = BitVec.ofNat 32 (6 + 8 * s.prime.toNat) := by
  simp [statusWord]

end

/-- Settles O35: the frame is the definition of `raiseError`; the word is that of DONE and ERRF alone. -/
theorem errorCompletionWritesOnlyTheError : Obligations.ErrorCompletionWritesOnlyTheError := by
  refine fun k s => ⟨rfl, fun hp => ?_⟩
  rw [statusWord_raiseError, hp]
  rfl

/-! ### The unanswered draw (R170) -/

section

variable {s t : State}

/-- A host write starts nothing while a command runs: `CMD` drops the word, no other register holds `SEQ` (R67, R44). -/
theorem writeReg_busy_seq {g : Reg} {w : Word} (hq : s.seq ≠ .idle) (hw : writeReg g w s = .next t) : t.seq = s.seq := by
  by_cases hg : g = .cmd
  · subst hg
    rw [writeReg_cmd, writeCommand_busy hq] at hw
    cases hw
    rfl
  · rw [writeReg_of_ne hg] at hw
    cases hw
    exact regWrite_seq g w s

/-- A turn that is neither an answer nor a reset keeps the block in `MR_DRAW`. -/
theorem perform_keeps_mrDraw {v : Event} (hq : s.seq = .mrDraw) (hanswer : ∀ x, v ≠ .answer x) (hreset : v ≠ .reset)
    (hp : perform v s = .next t) : t.seq = .mrDraw := by
  rcases perform_next hp with ⟨_, _, _, -, -, hw⟩ | ⟨_, _, -, -, rfl⟩ | ⟨x, hv, -⟩ | ⟨hv, -⟩ | ⟨-, rfl⟩
  · exact (writeReg_busy_seq (by simp [hq]) hw).trans hq
  · exact hq
  · exact absurd hv (hanswer x)
  · exact absurd hv hreset
  · rwa [sequencerStep_mrDraw hq]

/-- With no turn waiting, no number of steps changes a state in `MR_DRAW`. -/
theorem runSteps_mrDraw (hq : s.seq = .mrDraw) (ha : s.agenda = []) (k : Nat) : runSteps k s = .next s := by
  rw [runSteps_eq_iterate k ha, Function.iterate_fixed (sequencerStep_mrDraw hq)]

end

/-- Settles O28: `MR_DRAW` is a fixed point of the sequencer (log 4), and no host access leaves it. -/
theorem unansweredDrawWaitsForEver : Obligations.UnansweredDrawWaitsForEver :=
  fun _ hq => ⟨runSteps_mrDraw hq, by simp [busy, hq], fun _ _ => perform_keeps_mrDraw hq⟩

end Sys2Proof.Proofs.Exceptions

/-! PROOFS. The statements of 42_modinv.md section 4: the Bezout identities, the bounds of the coefficients, and what a whole
run of MODINV computes. -/

namespace Sys2Proof.Proofs.Euclid

open Sys2Proof Sys2Proof.Machine Sys2Proof.Machine.Substrate Sys2Proof.Safety
open Sys2Proof.Proofs.Encoding Sys2Proof.Proofs.Modexp Sys2Proof.Proofs.Modinv

/-! ### Runs of the unit (R113 to R115) -/

/-- The unit runs with `P` true of its registers, or it has ended. -/
def RunsWith (P : Miu → Prop) (s : State) : Prop := s.seq = .miLoop ∧ P s.miu ∨ s.seq = .idle

section

variable {P : Miu → Prop} {s : State} {j : Nat}

/-- What every loop step keeps holds until the unit ends. -/
theorem RunsWith.step (hloop : ∀ k : Miu, 0 < k.r1 → P k → P (miuLoop k)) (h : RunsWith P s) :
    RunsWith P (sequencerStep s) := by
  rcases h with ⟨hq, hP⟩ | hq
  · rw [sequencerStep_miLoop hq]
    rcases miuStep_cases s with ⟨hr, ht⟩ | ⟨-, -, ht⟩ | ⟨-, -, ht⟩ <;> rw [ht]
    · exact .inl ⟨hq, hloop s.miu (Nat.pos_of_ne_zero hr) hP⟩
    · exact .inr rfl
    · exact .inr rfl
  · rw [sequencerStep_idle hq]
    exact .inr hq

theorem RunsWith.iterate (hloop : ∀ k : Miu, 0 < k.r1 → P k → P (miuLoop k)) (h : RunsWith P s) (j : Nat) :
    RunsWith P (sequencerStep^[j] s) := by
  induction j with
  | zero => exact h
  | succ j ih => rw [Function.iterate_succ_apply']; exact ih.step hloop

theorem RunsWith.registers (h : RunsWith P s) (hq : s.seq = .miLoop) : P s.miu := by
  rcases h with ⟨-, hP⟩ | hidle
  · exact hP
  · rw [hq] at hidle; cases hidle

/-- While remainders are left, the sequencer makes the unit's loop steps and nothing else. -/
theorem iterate_inverse_loop (hq : s.seq = .miLoop) (hr : ∀ i, i < j → (miuLoop^[i] s.miu).r1 ≠ 0) :
    sequencerStep^[j] s = { s with miu := miuLoop^[j] s.miu } := by
  induction j with
  | zero => rfl
  | succ j ih =>
    rw [Function.iterate_succ_apply', ih fun i hi => hr i (by omega), Function.iterate_succ_apply' miuLoop]
    exact sequencerStep_inverse_loop hq (hr j (by omega))

end

/-! ### The number of loop steps (R118) -/

/-- A remainder is less than half of the dividend. -/
theorem two_mul_mod_lt {x y : Nat} (hy : 0 < y) (hle : y ≤ x) : 2 * (x % y) < x := by
  have hlt := Nat.mod_lt x hy
  have hsub : x % y ≤ x - y := Nat.mod_eq_sub_mod hle ▸ Nat.mod_le (x - y) y
  omega

theorem miuLoop_r0 {k : Miu} : (miuLoop k).r0 = k.r1 := rfl

theorem miuLoop_r1 {k : Miu} (hr : 0 < k.r1) : (miuLoop k).r1 = k.r0 % k.r1 := by rw [miuLoop_of_pos hr]

/-- Two loop steps shorten `R1` by a bit, so `R1` reaches 0 within two steps per bit. -/
theorem exists_iterate_r1_eq_zero {b : Nat} {k : Miu} (hb : k.r1 < 2 ^ b) : ∃ j, j ≤ 2 * b ∧ (miuLoop^[j] k).r1 = 0 := by
  induction b generalizing k with
  | zero => exact ⟨0, by omega, by simpa using hb⟩
  | succ b ih =>
    by_cases hr : k.r1 = 0
    · exact ⟨0, by omega, hr⟩
    have hone := miuLoop_r1 (Nat.pos_of_ne_zero hr)
    by_cases hr' : (miuLoop k).r1 = 0
    · exact ⟨1, by omega, hr'⟩
    have htwo : (miuLoop (miuLoop k)).r1 = k.r1 % (k.r0 % k.r1) := by
      rw [miuLoop_r1 (Nat.pos_of_ne_zero hr'), miuLoop_r0, hone]
    have hlt := Nat.mod_lt k.r0 (Nat.pos_of_ne_zero hr)
    have hhalf := two_mul_mod_lt (x := k.r1) (y := k.r0 % k.r1) (by omega) hlt.le
    obtain ⟨j, hj, hend⟩ := ih (k := miuLoop (miuLoop k)) (by rw [htwo]; rw [pow_succ] at hb; omega)
    exact ⟨j + 2, by omega, hend⟩

/-- The loop ends: the first time `R1` is 0. -/
theorem exists_first_r1_eq_zero (k : Miu) :
    ∃ j, j ≤ 2 * bitlen k.r1 ∧ (∀ i, i < j → (miuLoop^[i] k).r1 ≠ 0) ∧ (miuLoop^[j] k).r1 = 0 := by
  obtain ⟨j, hj, hend⟩ := exists_iterate_r1_eq_zero (lt_two_pow_bitlen k.r1)
  have hex : ∃ j, (miuLoop^[j] k).r1 = 0 := ⟨j, hend⟩
  exact ⟨Nat.find hex, (Nat.find_min' hex hend).trans hj, fun i hi => Nat.find_min hex hi, Nat.find_spec hex⟩

/-! ### The Bezout identities (R116 (a)) -/

/-- What `BezoutHolds` says of the unit's registers while it runs. -/
def Bezout (a : Nat) (k : Miu) : Prop :=
  (k.r0 : Int) = k.s0 * a + k.t0 * k.mn ∧ (k.r1 : Int) = k.s1 * a + k.t1 * k.mn ∧ Nat.gcd k.r0 k.r1 = Nat.gcd a k.mn

theorem bezoutHolds_iff {a : Nat} {s : State} : BezoutHolds a s ↔ (s.seq = .miLoop → Bezout a s.miu) := Iff.rfl

theorem bezout_start (a n : Nat) : Bezout a { r0 := a, r1 := n, s0 := 1, s1 := 0, t0 := 0, t1 := 1, mn := n } := by
  simp [Bezout]

theorem Bezout.miuLoop {a : Nat} {k : Miu} (hr : 0 < k.r1) (h : Bezout a k) : Bezout a (miuLoop k) := by
  obtain ⟨h0, h1, hgcd⟩ := h
  rw [miuLoop_of_pos hr]
  refine ⟨h1, ?_, ?_⟩
  · have hdiv : (k.r0 % k.r1 : Nat) + (k.r0 / k.r1 : Nat) * (k.r1 : Int) = k.r0 := by
      exact_mod_cast Nat.mod_add_div' k.r0 k.r1
    linear_combination hdiv + h0 - (k.r0 / k.r1 : Nat) * h1
  · rw [← hgcd, Nat.gcd_comm k.r1, ← Nat.gcd_rec, Nat.gcd_comm]

/-- Settles O20: the identities are linear in the rows `(R, S, T)`, and a Euclid step is a row operation. -/
theorem bezoutIdentitiesAreKept : Obligations.BezoutIdentitiesAreKept := by
  refine ⟨fun s hq hm => ⟨_, exec_modinv_idle_pos hq hm, rfl, fun _ => bezout_start s.a s.m⟩, fun a s hq h => ?_⟩
  have hruns : RunsWith (Bezout a) s := .inl ⟨hq, bezoutHolds_iff.mp h hq⟩
  exact (hruns.step fun _ => Bezout.miuLoop).registers

/-! ### The bounds (R117, G4) -/

/-- One column of coefficients beside its remainders: the signs alternate, the weighted sum stays `total`, and neither coefficient
exceeds `bound` (G4). -/
structure ColumnBounds (total bound r0 r1 : Nat) (x0 x1 : Int) : Prop where
  signs : x0 * x1 ≤ 0
  sum   : r0 * x1.natAbs + r1 * x0.natAbs = total
  le0   : x0.natAbs ≤ bound
  le1   : x1.natAbs ≤ bound

section

variable {total bound r0 r1 : Nat} {x0 x1 : Int}

/-- With alternating signs the absolute values add up in the new coefficient. -/
theorem natAbs_sub_mul (hsigns : x0 * x1 ≤ 0) (q : Nat) : (x0 - q * x1).natAbs = x0.natAbs + q * x1.natAbs := by
  have hprod : ((q : Int) * x1).natAbs = q * x1.natAbs := by rw [Int.natAbs_mul, Int.natAbs_natCast]
  rw [← hprod]
  rcases mul_nonpos_iff.mp hsigns with ⟨h0, h1⟩ | ⟨h0, h1⟩
  · have hq : (q : Int) * x1 ≤ 0 := mul_nonpos_of_nonneg_of_nonpos (Int.natCast_nonneg q) h1
    omega
  · have hq : 0 ≤ (q : Int) * x1 := mul_nonneg (Int.natCast_nonneg q) h1
    omega

theorem ColumnBounds.step (hr : 0 < r1) (hle : total ≤ bound) (h : ColumnBounds total bound r0 r1 x0 x1) :
    ColumnBounds total bound r1 (r0 % r1) x1 (x0 - (r0 / r1 : Nat) * x1) := by
  have habs := natAbs_sub_mul h.signs (r0 / r1)
  have hsum : r1 * (x0 - (r0 / r1 : Nat) * x1).natAbs + r0 % r1 * x1.natAbs = total := by
    calc r1 * (x0 - (r0 / r1 : Nat) * x1).natAbs + r0 % r1 * x1.natAbs
        = (r1 * (r0 / r1) + r0 % r1) * x1.natAbs + r1 * x0.natAbs := by rw [habs]; ring
      _ = total := by rw [Nat.div_add_mod, h.sum]
  have hnew : (x0 - (r0 / r1 : Nat) * x1).natAbs ≤ total :=
    (Nat.le_mul_of_pos_left _ hr).trans ((Nat.le_add_right _ _).trans hsum.le)
  refine ⟨?_, hsum, h.le1, hnew.trans hle⟩
  have hsquare : 0 ≤ ((r0 / r1 : Nat) : Int) * (x1 * x1) := mul_nonneg (Int.natCast_nonneg _) (mul_self_nonneg x1)
  calc x1 * (x0 - (r0 / r1 : Nat) * x1) = x0 * x1 - (r0 / r1 : Nat) * (x1 * x1) := by ring
    _ ≤ 0 := by linarith [h.signs]

/-- The product formed in a step stays within the sum. -/
theorem ColumnBounds.quotient_mul_le (h : ColumnBounds total bound r0 r1 x0 x1) : r0 / r1 * x1.natAbs ≤ total :=
  (Nat.mul_le_mul_right _ (Nat.div_le_self r0 r1)).trans ((Nat.le_add_right _ _).trans h.sum.le)

end

/-- The bounds of R117 for the unit's registers on `(a, n)`. -/
structure UnitBounds (a n : Nat) (k : Miu) : Prop where
  r0 : k.r0 ≤ max a n
  r1 : k.r1 ≤ max a n
  s  : ColumnBounds n n k.r0 k.r1 k.s0 k.s1
  t  : ColumnBounds a (max a 1) k.r0 k.r1 k.t0 k.t1

section

variable {a n : Nat}

theorem unitBounds_start (hn : n ≠ 0) : UnitBounds a n { r0 := a, r1 := n, s0 := 1, s1 := 0, t0 := 0, t1 := 1, mn := n } where
  r0 := le_max_left a n
  r1 := le_max_right a n
  s := ⟨by simp, by simp, by simp only [Int.natAbs_one]; omega, by simp⟩
  t := ⟨by simp, by simp, by simp, by simp⟩

theorem UnitBounds.miuLoop {k : Miu} (hr : 0 < k.r1) (h : UnitBounds a n k) : UnitBounds a n (miuLoop k) := by
  obtain ⟨h0, h1, hs, ht⟩ := h
  rw [miuLoop_of_pos hr]
  exact ⟨h1, (Nat.mod_le _ _).trans h0, hs.step hr le_rfl, ht.step hr (le_max_left a 1)⟩

end

/-- Settles O21: each column's weighted sum of absolute values is constant, which bounds every coefficient and product by it. -/
theorem inverseUnitCoefficientBounds : Obligations.InverseUnitCoefficientBounds := by
  refine fun s hq hm => ⟨_, exec_modinv_idle_pos hq hm, ?_⟩
  rintro k u rfl hu
  obtain ⟨hr0, hr1, hs, ht⟩ := (RunsWith.iterate (fun _ => UnitBounds.miuLoop) (.inl ⟨rfl, unitBounds_start hm⟩) k).registers hu
  refine ⟨hr0, hr1, hs.le0, hs.le1, ht.le0, ht.le1, fun _ => ?_⟩
  have hqs := hs.quotient_mul_le
  have hqt := ht.quotient_mul_le
  exact ⟨by omega, by omega⟩

/-! ### The whole run (R116 (b), (e), (f), R118 to R120) -/

section

variable {a n r y : Nat}

/-- The coefficient of `a` in a Bezout identity for 1, reduced modulo `n`, is an inverse. -/
theorem mul_emod_mod_eq_one {s0 t0 : Int} (hn : 0 < n) (h : (1 : Int) = s0 * a + t0 * n) : a * emod s0 n % n = 1 % n := by
  obtain ⟨c, hc⟩ := dvd_sub_emod (x := s0) hn
  rw [← Nat.ModEq, Nat.modEq_iff_dvd]
  refine ⟨a * c + t0, ?_⟩
  push_cast
  linear_combination h + a * hc

theorem eq_of_mul_mod_eq_one (hgcd : Nat.gcd a n = 1) (hr : r < n) (hy : y < n) (har : a * r % n = 1 % n)
    (hay : a * y % n = 1 % n) : y = r := by
  have hmod : a * y ≡ a * r [MOD n] := hay.trans har.symm
  exact (hmod.cancel_left_of_coprime ((Nat.gcd_comm n a).trans hgcd)).eq_of_lt_of_lt hy hr

end

/-- The unit's registers when the loop ends, after `MODINV` was accepted with `A = a`, `M = n`. -/
theorem exists_inverse_end {s : State} {a n : Nat} (hq : s.seq = .miLoop)
    (hs : s.miu = { r0 := a, r1 := n, s0 := 1, s1 := 0, t0 := 0, t1 := 1, mn := n }) :
    ∃ j k, j ≤ 2 * bitlen n ∧ (∀ i, i ≤ j → (sequencerStep^[i] s).seq = .miLoop) ∧
      sequencerStep^[j] s = { s with miu := k } ∧ k.r1 = 0 ∧ k.mn = n ∧ k.r0 = Nat.gcd a n ∧
      (k.r0 : Int) = k.s0 * a + k.t0 * n := by
  obtain ⟨j, hj, hloop, hend⟩ := exists_first_r1_eq_zero s.miu
  have hrun {i : Nat} (hi : i ≤ j) : sequencerStep^[i] s = { s with miu := miuLoop^[i] s.miu } :=
    iterate_inverse_loop hq fun i' hi' => hloop i' (by omega)
  have hstart : RunsWith (fun k => Bezout a k ∧ k.mn = n) s := .inl ⟨hq, hs ▸ ⟨bezout_start a n, rfl⟩⟩
  have hkept := hstart.iterate (fun _ hr h => ⟨h.1.miuLoop hr, h.2⟩) j
  rw [hrun le_rfl] at hkept
  obtain ⟨⟨h0, -, hgcd⟩, hmn⟩ := hkept.registers hq
  simp only [hend, Nat.gcd_zero_right] at h0 hgcd hmn
  rw [hmn] at h0 hgcd
  refine ⟨j, _, by simpa [hs] using hj, fun i hi => ?_, hrun le_rfl, hend, hmn, hgcd, h0⟩
  rw [hrun hi]
  exact hq

/-- Settles O22: the loop ends with `R0 = gcd(A, M)` beside its Bezout identity, and the end step reads the inverse off it. -/
theorem modinvComputesTheInverse : Obligations.ModinvComputesTheInverse := by
  intro s hq hm ha
  have hn : 0 < s.m := Nat.pos_of_ne_zero hm
  obtain ⟨j, k, hj, hloop, hend, hr1, hmn, hgcd, hbez⟩ :=
    exists_inverse_end (s := miuStart s.a s.m (acceptCommon 2 s)) rfl rfl
  have hrun (i : Nat) := runSteps_eq_iterate (s := miuStart s.a s.m (acceptCommon 2 s)) i ha
  have hlast := hrun (j + 1)
  rw [Function.iterate_succ_apply', hend] at hlast
  refine ⟨_, exec_modinv_idle_pos hq hm, j + 1, by omega, fun i hi => ⟨_, hrun i, hloop i (by omega)⟩, fun hone => ?_,
    fun hne => ⟨k, ?_⟩⟩
  · have hr0 : k.r0 = 1 := hgcd.trans hone
    have hinv := mul_emod_mod_eq_one hn (hr0 ▸ hbez)
    refine ⟨emod k.s0 s.m, k, emod_lt hn, hinv, fun y hy hay => eq_of_mul_mod_eq_one hone (emod_lt hn) hy hinv hay,
      hlast.trans ?_⟩
    rw [sequencerStep_inverse_found rfl hr1 hr0, hmn, hq]
    rfl
  · refine hlast.trans ?_
    rw [sequencerStep_inverse_none rfl hr1 (hgcd ▸ hne), hq]
    rfl

end Sys2Proof.Proofs.Euclid

/-! PROOFS. Promise (a) of 43_mrtest.md section 4: the test of a prime, followed through every state of the sequencer. -/

namespace Sys2Proof.Proofs.PrimeTest

open Sys2Proof Sys2Proof.Machine Sys2Proof.Machine.Substrate Sys2Proof.Safety
open Sys2Proof.Proofs.Encoding Sys2Proof.Proofs.Modexp Sys2Proof.Proofs.Mrtest

/-! ### Every base passes against a prime (R136 (a)) -/

/-- In a domain a repeated square root of 1 is 1, or -1 stands on the way. -/
theorem eq_one_or_neg_one_of_pow_two_pow {R : Type*} [Ring R] [NoZeroDivisors R] {x : R} {c : Nat} (h : x ^ 2 ^ c = 1) :
    x = 1 ∨ ∃ j, j < c ∧ x ^ 2 ^ j = -1 := by
  induction c with
  | zero => exact .inl (by simpa using h)
  | succ c ih =>
    rw [pow_succ, pow_mul, sq_eq_one_iff] at h
    rcases h with h | h
    · exact (ih h).imp_right fun ⟨j, hj, hx⟩ => ⟨j, by omega, hx⟩
    · exact .inr ⟨c, by omega, h⟩

/-- Fermat's theorem, read along the squarings of R135. -/
theorem roundPasses_of_prime {p c d v : Nat} (hp : p.Prime) (hdec : Decomposes p c d) (hv : InDrawRange p v) :
    RoundPasses p c d v := by
  obtain ⟨hlo, hhi⟩ := hv
  have hfact : Fact p.Prime := ⟨hp⟩
  have hne : (v : ZMod p) ≠ 0 := by
    rw [Ne, ZMod.natCast_eq_zero_iff]
    exact Nat.not_dvd_of_pos_of_lt (by omega) (by omega)
  have hfermat : ((v : ZMod p) ^ d) ^ 2 ^ c = 1 := by
    have hexp : p - 1 = d * 2 ^ c := by rw [mul_comm]; exact Nat.sub_eq_of_eq_add hdec.1
    rw [← pow_mul, ← hexp, ZMod.pow_card_sub_one_eq_one hne]
  have hcast {x y : Nat} (hy : y < p) (h : (x : ZMod p) = y) : x % p = y := by
    rwa [ZMod.natCast_eq_natCast_iff', Nat.mod_eq_of_lt hy] at h
  rcases eq_one_or_neg_one_of_pow_two_pow hfermat with h | ⟨j, hj, h⟩
  · exact .inl (hcast (by omega) (by push_cast; exact h))
  · refine .inr ⟨j, hj, hcast (by omega) ?_⟩
    rw [Nat.cast_sub (by omega), Nat.cast_pow, mul_comm, pow_mul, h]
    simp

/-! ### The invariant of the test of a prime -/

/-- The tester holds the decomposition of the prime `p` (R128). -/
structure Decomposed (p : Nat) (mrt : Mrt) : Prop where
  nc         : mrt.nc = p
  odd        : p % 2 = 1
  decomposes : Decomposes p mrt.scnt mrt.d

/-- What holds in each state of the sequencer while MRTEST runs on the prime `p`: the engine is on the way to the power of an
answer in the range, the check finds that power, and the squarings are yet to reach `p - 1`. -/
abbrev Stage (p : Nat) (s : State) : SeqState → Prop
  | .idle => s.prime = true ∧ s.done = true
  | .miLoop => False
  | .mrClassify => s.mrt.nc = p
  | .mrDecomp => s.mrt.nc = p ∧ p % 2 = 1 ∧ p = 2 ^ s.mrt.scnt * s.mrt.d + 1
  | .mrRound | .mrDraw => Decomposed p s.mrt
  | .meLoop => Decomposed p s.mrt ∧ ∃ v k, InDrawRange p v ∧ s.mee = engineAfter v s.mrt.d p .mrt k
  | .mrCheck => Decomposed p s.mrt ∧ ∃ v, InDrawRange p v ∧ s.mrt.x = v ^ s.mrt.d % p
  | .mrSquare => Decomposed p s.mrt ∧ ReachesMinusOne p (s.mrt.x * s.mrt.x % p) s.mrt.sqleft

/-- The test of the prime `p` runs, or has answered 1. -/
abbrev OnPrime (p : Nat) (s : State) : Prop := Stage p s s.seq

section

variable {p : Nat} {s : State}

theorem OnPrime.stage {q : SeqState} (h : OnPrime p s) (hq : s.seq = q) : Stage p s q := hq ▸ h

theorem OnPrime.clear_agenda (h : OnPrime p s) : OnPrime p { s with agenda := [] } := h

/-- The round that passes leaves what the next one starts from. -/
theorem Decomposed.onPrime_mrtPass (h : Decomposed p s.mrt) : OnPrime p (mrtPass s) := ⟨h.nc, h.odd, h.decomposes⟩

/-- When the exponent is used up the engine holds the power. -/
theorem engineAfter_res_of_expr_eq_zero {b x n k : Nat} {c : Caller} (h : (engineAfter b x n c k).expr = 0) :
    (engineAfter b x n c k).res = b ^ x % n := by
  have hk : bitlen x ≤ k := not_lt.mp fun hk => engineAfter_expr_ne_zero hk h
  simp only [engineAfter, Nat.mod_eq_of_lt (bitlen_le_iff.mp hk)]

theorem onPrime_mrtDecomp (h : Stage p s .mrDecomp) (hq : s.seq = .mrDecomp) : OnPrime p (mrtDecomp s) := by
  obtain ⟨hn, hodd, hdec⟩ := h
  rcases mrtDecomp_cases s with ⟨heven, ht⟩ | ⟨hd, ht⟩ <;> rw [ht]
  · rw [OnPrime, hq]
    refine ⟨hn, hodd, ?_⟩
    rw [pow_succ, mul_assoc, Nat.mul_div_cancel' (Nat.dvd_of_mod_eq_zero heven)]
    exact hdec
  · exact ⟨hn, hodd, hdec, hd⟩

theorem onPrime_mrtRound (h : Decomposed p s.mrt) : OnPrime p (mrtRound s) := by
  rcases mrtRound_cases s with ⟨-, ht⟩ | ⟨-, ht⟩ <;> rw [ht]
  · exact ⟨rfl, rfl⟩
  · exact ⟨h.nc, h.odd, h.decomposes⟩

variable (hp : p.Prime)

include hp

theorem onPrime_meeStep (h : Stage p s .meLoop) (hq : s.seq = .meLoop) : OnPrime p (meeStep s) := by
  obtain ⟨hdec, v, k, hv, hmee⟩ := h
  rcases meeStep_cases s with ⟨-, ht⟩ | ⟨-, hhost, -⟩ | ⟨hexpr, -, ht⟩
  · rw [ht, hmee, meeLoop_engineAfter hp.pos, OnPrime, hq]
    exact ⟨hdec, v, k + 1, hv, rfl⟩
  · rw [hmee] at hhost
    cases hhost
  · rw [ht]
    rw [hmee] at hexpr
    refine ⟨⟨hdec.nc, hdec.odd, hdec.decomposes⟩, v, hv, ?_⟩
    rw [hmee]
    exact engineAfter_res_of_expr_eq_zero hexpr

theorem onPrime_mrtClassify (h : s.mrt.nc = p) : OnPrime p (mrtClassify s) := by
  have hsmall := hp.two_le
  have heven := hp.eq_two_or_odd
  rcases mrtClassify_cases s with ⟨b, ht, ⟨rfl, -⟩ | ⟨-, hcomposite⟩⟩ | ⟨hn, hodd, ht⟩
  · rw [ht]
    exact ⟨rfl, rfl⟩
  · omega
  · rw [ht]
    refine ⟨h, h ▸ hodd, ?_⟩
    simp only [pow_zero]
    omega

theorem onPrime_mrtDraw {v : Nat} (h : Decomposed p s.mrt) (hv : InDrawRange p v) : OnPrime p (mrtDraw v s) := by
  refine ⟨⟨h.nc, h.odd, h.decomposes⟩, v, 0, hv, ?_⟩
  rw [engineAfter_zero, mrtDraw_mee, h.nc, mod_of_pos hp.pos, mod_of_pos hp.pos]
  rfl

theorem onPrime_mrtCheck (h : Stage p s .mrCheck) : OnPrime p (mrtCheck s) := by
  obtain ⟨hdec, v, hv, hx⟩ := h
  rcases mrtCheck_cases s with ⟨-, ht⟩ | ⟨hgo, ht⟩ <;> rw [ht]
  · exact hdec.onPrime_mrtPass
  · obtain ⟨q, hq⟩ : ∃ q, s.mrt.scnt = q + 1 := ⟨s.mrt.scnt - 1, by have := one_le_scnt hdec.odd hdec.decomposes; omega⟩
    have hpass := roundPasses_iff.mp (roundPasses_of_prime hp hdec.decomposes hv)
    rw [hq, reachesMinusOne_succ, Nat.mod_mod, ← hx] at hpass
    rw [hdec.nc] at hgo
    rcases hpass with hone | hlast | hreach
    · exact absurd (.inl hone) hgo
    · exact absurd (.inr (by have := hp.pos; omega)) hgo
    · refine ⟨⟨hdec.nc, hdec.odd, hdec.decomposes⟩, ?_⟩
      rwa [hq, sub_of_le (by omega)]

theorem onPrime_mrtSquare (h : Stage p s .mrSquare) (hq : s.seq = .mrSquare) : OnPrime p (mrtSquare s) := by
  obtain ⟨hdec, hreach⟩ := h
  rcases mrtSquare_cases s with ⟨hzero, -⟩ | ⟨hleft, t, rfl, ⟨-, ht⟩ | ⟨hgo, ht⟩⟩
  · rw [hzero] at hreach
    exact absurd hreach not_reachesMinusOne_zero
  · rw [ht]
    exact Decomposed.onPrime_mrtPass ⟨hdec.nc, hdec.odd, hdec.decomposes⟩
  · obtain ⟨r, hr⟩ : ∃ r, s.mrt.sqleft = r + 1 := ⟨s.mrt.sqleft - 1, by omega⟩
    rw [hr, reachesMinusOne_succ, Nat.mod_mod] at hreach
    simp only [hdec.nc, mulmod_of_pos hp.pos] at hgo ht
    rw [ht, OnPrime, hq]
    refine ⟨⟨rfl, hdec.odd, hdec.decomposes⟩, ?_⟩
    simp only [hr, Nat.add_sub_cancel]
    exact hreach.resolve_left fun hlast => hgo (by have := hp.pos; omega)

theorem OnPrime.kept_by_step (h : OnPrime p s) : OnPrime p (sequencerStep s) := by
  rcases sequencerStep_cases s with ⟨-, ht⟩ | ⟨hq, ht⟩ | ⟨hq, -⟩ | ⟨hq, ht⟩ | ⟨hq, ht⟩ | ⟨hq, ht⟩ | ⟨hq, ht⟩ | ⟨hq, ht⟩
  · rwa [ht]
  · exact ht ▸ onPrime_meeStep hp (h.stage hq) hq
  · exact absurd (h.stage hq) id
  · exact ht ▸ onPrime_mrtClassify hp (h.stage hq)
  · exact ht ▸ onPrime_mrtDecomp (h.stage hq) hq
  · exact ht ▸ onPrime_mrtRound (h.stage hq)
  · exact ht ▸ onPrime_mrtCheck hp (h.stage hq)
  · exact ht ▸ onPrime_mrtSquare hp (h.stage hq) hq

end

/-! ### The driven run -/

/-- A driven run that never meets an answer out of range does not stop, and what every step keeps holds where it is. -/
theorem drive_total {P : State → List Nat → Prop} {draws : List Nat} {s : State} {k : Nat}
    (hseq : ∀ s draws, P s draws → P (sequencerStep { s with agenda := [] }) draws)
    (hdraw : ∀ s v rest, s.seq = .mrDraw → P s (v :: rest) →
      InDrawRange s.mrt.nc v ∧ P (mrtDraw v { s with agenda := [] }) rest)
    (h : P s draws) : ∃ u rest, drive k draws s = some (u, rest) ∧ P u rest := by
  induction k generalizing s draws with
  | zero => exact ⟨s, draws, rfl, h⟩
  | succ k ih =>
    by_cases hwait : s.seq = .mrDraw → draws = []
    · rw [drive_sequencer hwait]
      exact ih (hseq s draws h)
    · obtain ⟨hq, hne⟩ := Classical.not_imp.mp hwait
      obtain ⟨v, rest, rfl⟩ := List.exists_cons_of_ne_nil hne
      obtain ⟨hv, hnext⟩ := hdraw s v rest hq h
      rw [drive_answer hq hv]
      exact ih hnext

/-- Settles O33: the invariant keeps the run inside the range of the draws, and the only completion it allows answers 1. -/
theorem mrtestNeverRejectsAPrime : Obligations.MrtestNeverRejectsAPrime := by
  intro s draws k hq hp hdraws
  obtain ⟨t, hexec, hframe⟩ := mrtestLeavesOperandsAndResult s draws hq
  have hstart : OnPrime s.m t := by
    cases (exec_mrtest_idle hq).symm.trans hexec
    rfl
  obtain ⟨u, rest, hrun, hu, -⟩ := drive_total (k := k) (P := fun u draws => OnPrime s.m u ∧ ∀ v ∈ draws, InDrawRange s.m v)
    (fun _ _ h => ⟨h.1.clear_agenda.kept_by_step hp, h.2⟩)
    (fun u v rest hdraw h => by
      obtain ⟨hv, hrest⟩ := List.forall_mem_cons.mp h.2
      have hdec : Decomposed s.m u.mrt := h.1.stage hdraw
      exact ⟨hdec.nc.symm ▸ hv, onPrime_mrtDraw hp hdec hv, hrest⟩)
    ⟨hstart, hdraws⟩
  obtain ⟨-, -, -, -, -, -, -, herr, -⟩ := hframe k u rest hrun
  exact ⟨t, u, rest, hexec, hrun, fun hidle => ⟨(hu.stage hidle).1, (hu.stage hidle).2, herr⟩⟩

end Sys2Proof.Proofs.PrimeTest

/-! PROOFS. The statements of 20_memory.md section 3 and of WRBIG and RDBIG: the limb update, and a whole operand
written and read. -/

namespace Sys2Proof.Proofs.Limbs

open Sys2Proof Sys2Proof.Machine Sys2Proof.Safety Sys2Proof.Proofs.Flags Sys2Proof.Proofs.Memory

/-! ### Limbs as digits (R42) -/

section

variable (v i : Nat)

theorem limb_toNat : (limb v i).toNat = v / 2 ^ (32 * i) % 2 ^ 32 := BitVec.toNat_ofNat _ _

theorem two_pow_limb_succ : 2 ^ (32 * (i + 1)) = 2 ^ (32 * i) * 2 ^ 32 := by rw [Nat.mul_succ, pow_add]

/-- The low `i + 1` limbs are the low `i` limbs and limb `i`. -/
theorem mod_two_pow_limb_succ : v % 2 ^ (32 * (i + 1)) = v % 2 ^ (32 * i) + 2 ^ (32 * i) * (limb v i).toNat := by
  rw [two_pow_limb_succ, Nat.mod_mul, limb_toNat]

theorem div_two_pow_limb_succ : v / 2 ^ (32 * (i + 1)) = v / 2 ^ (32 * i) / 2 ^ 32 := by
  rw [two_pow_limb_succ, Nat.div_div_eq_div_mul]

variable {v i} {j : Nat}

/-- The low `i` limbs decide each limb below `i`. -/
theorem limb_mod_two_pow (h : j < i) : limb (v % 2 ^ (32 * i)) j = limb v j := by
  refine BitVec.eq_of_toNat_eq ?_
  have hpow : 2 ^ (32 * i) = 2 ^ (32 * j) * (2 ^ 32 * 2 ^ (32 * (i - (j + 1)))) := by
    rw [← pow_add, ← pow_add]
    congr 1
    omega
  rw [limb_toNat, limb_toNat, hpow, Nat.mod_mul_right_div_self, Nat.mod_mul_right_mod]

/-- What stands above the low `i` limbs decides each limb from `i` on. -/
theorem limb_div_two_pow : limb (v / 2 ^ (32 * i)) j = limb v (i + j) := by
  rw [limb, limb, Nat.div_div_eq_div_mul, ← pow_add, Nat.mul_add]

end

/-! ### The limb update (R44) -/

section

variable (v i : Nat) (w : Word)

/-- The digits after the update: those below limb `i`, the new limb, those above it. -/
theorem setLimb_eq : setLimb v i w = v % 2 ^ (32 * i) + 2 ^ (32 * i) * (w.toNat + 2 ^ 32 * (v / 2 ^ (32 * (i + 1)))) := by
  have hv : v = v % 2 ^ (32 * i) + 2 ^ (32 * i) * ((limb v i).toNat + 2 ^ 32 * (v / 2 ^ (32 * (i + 1)))) := by
    rw [limb_toNat, div_two_pow_limb_succ, Nat.mod_add_div, Nat.mod_add_div]
  have hrest : v - (limb v i).toNat * 2 ^ (32 * i) =
      v % 2 ^ (32 * i) + 2 ^ (32 * i) * (2 ^ 32 * (v / 2 ^ (32 * (i + 1)))) := by
    refine Nat.sub_eq_of_eq_add ?_
    calc v = _ := hv
      _ = _ := by ring
  rw [setLimb, hrest]
  ring

@[simp] theorem setLimb_mod : setLimb v i w % 2 ^ (32 * i) = v % 2 ^ (32 * i) := by
  rw [setLimb_eq, Nat.add_mul_mod_self_left, Nat.mod_mod]

theorem setLimb_div : setLimb v i w / 2 ^ (32 * i) = w.toNat + 2 ^ 32 * (v / 2 ^ (32 * (i + 1))) := by
  rw [setLimb_eq, Nat.add_mul_div_left _ _ (by positivity), Nat.div_eq_of_lt (Nat.mod_lt _ (by positivity)), Nat.zero_add]

@[simp] theorem setLimb_div_succ : setLimb v i w / 2 ^ (32 * (i + 1)) = v / 2 ^ (32 * (i + 1)) := by
  rw [div_two_pow_limb_succ, setLimb_div, Nat.add_mul_div_left _ _ (by positivity), Nat.div_eq_of_lt w.isLt, Nat.zero_add]

@[simp] theorem limb_setLimb_self : limb (setLimb v i w) i = w := by
  refine BitVec.eq_of_toNat_eq ?_
  rw [limb_toNat, setLimb_div, Nat.add_mul_mod_self_left, Nat.mod_eq_of_lt w.isLt]

theorem limb_setLimb_of_ne {j : Nat} (h : j ≠ i) : limb (setLimb v i w) j = limb v j := by
  rcases Nat.lt_or_gt_of_ne h with hlt | hgt
  · rw [← limb_mod_two_pow hlt, setLimb_mod, limb_mod_two_pow hlt]
  · obtain ⟨k, rfl⟩ := Nat.exists_eq_add_of_lt hgt
    rw [Nat.add_right_comm, ← limb_div_two_pow, setLimb_div_succ, limb_div_two_pow]

theorem setLimb_setLimb : setLimb (setLimb v i w) i w = setLimb v i w := by
  conv_lhs => rw [setLimb_eq, setLimb_mod, setLimb_div_succ, ← setLimb_eq]

variable {v i}

/-- The update stays inside `L` limbs. -/
theorem setLimb_lt {L : Nat} (hi : i < L) (hv : v < 2 ^ (32 * L)) : setLimb v i w < 2 ^ (32 * L) := by
  have hpow : 2 ^ (32 * L) = 2 ^ (32 * (L - (i + 1))) * 2 ^ (32 * (i + 1)) := by
    rw [← pow_add]
    congr 1
    omega
  rw [hpow, ← Nat.div_lt_iff_lt_mul (by positivity)] at hv ⊢
  rwa [setLimb_div_succ]

end

/-- Settles O40: the update changes one digit in base 2^32. -/
theorem limbWriteReplacesOneLimb : Obligations.LimbWriteReplacesOneLimb :=
  fun _ v i w hi hv => ⟨setLimb_lt w hi hv, limb_setLimb_self v i w, fun _ hj => limb_setLimb_of_ne v i w hj⟩

/-! ### All limbs of a register (R42, R65, R70) -/

theorem fromLimbs_append_singleton (ws : List Word) (w : Word) :
    fromLimbs (ws ++ [w]) = fromLimbs ws + 2 ^ (32 * ws.length) * w.toNat := by
  induction ws with
  | nil => simp [fromLimbs]
  | cons x ws ih =>
    rw [List.cons_append, fromLimbs, ih, fromLimbs, List.length_cons, two_pow_limb_succ]
    ring

/-- The sum of the low limbs. -/
theorem fromLimbs_map_limb (v n : Nat) : fromLimbs ((List.range n).map (limb v)) = v % 2 ^ (32 * n) := by
  induction n with
  | zero => simp [fromLimbs, Nat.mod_one]
  | succ n ih =>
    rw [List.range_succ, List.map_append, List.map_singleton, fromLimbs_append_singleton, ih, mod_two_pow_limb_succ]
    simp

/-- What a register that held `x` holds after the limbs `is` of `v` have been written, in order. -/
def loadLimbs (v : Nat) (is : List Nat) (x : Nat) : Nat := is.foldl (fun x i => setLimb x i (limb v i)) x

theorem loadLimbs_range (v n x : Nat) :
    loadLimbs v (List.range n) x = v % 2 ^ (32 * n) + 2 ^ (32 * n) * (x / 2 ^ (32 * n)) := by
  induction n with
  | zero => simp [loadLimbs, Nat.mod_one]
  | succ n ih =>
    have hlow : loadLimbs v (List.range n) x % 2 ^ (32 * n) = v % 2 ^ (32 * n) := by
      rw [ih, Nat.add_mul_mod_self_left, Nat.mod_mod]
    have hhigh : loadLimbs v (List.range n) x / 2 ^ (32 * n) = x / 2 ^ (32 * n) := by
      rw [ih, Nat.add_mul_div_left _ _ (by positivity), Nat.div_eq_of_lt (Nat.mod_lt _ (by positivity)), Nat.zero_add]
    have hnext : loadLimbs v (List.range (n + 1)) x = setLimb (loadLimbs v (List.range n) x) n (limb v n) := by
      simp [loadLimbs, List.range_succ]
    rw [hnext, setLimb_eq, hlow, mod_two_pow_limb_succ v, div_two_pow_limb_succ _ n, hhigh, ← div_two_pow_limb_succ,
      two_pow_limb_succ]
    ring

/-- All `n` limbs written, nothing of the old value is left. -/
theorem loadLimbs_range_eq {v n x : Nat} (hv : v < 2 ^ (32 * n)) (hx : x < 2 ^ (32 * n)) :
    loadLimbs v (List.range n) x = v := by
  rw [loadLimbs_range, Nat.mod_eq_of_lt hv, Nat.div_eq_of_lt hx, Nat.mul_zero, Nat.add_zero]

/-! ### Accesses to the limbs of a bank, one turn each (R43, R44, R69) -/

theorem step_of_agenda_cons {s : State} {v : Event} {rest : List Event} (ha : s.agenda = v :: rest) :
    step s = perform v { s with agenda := rest } := by
  simp only [step, nextTurn, ha]

/-- The state with a value in an operand register; the host writes no value to `R`. -/
def writeBank (b : Bank) (v : Nat) (s : State) : State :=
  match b with
  | .a => { s with a := v }
  | .e => { s with e := v }
  | .m => { s with m := v }
  | .r => s

theorem regWrite_limb (b : Bank) (i : Nat) (w : Word) (s : State) :
    regWrite (.limb b i) w s = writeBank b (setLimb (bankValue b s) i w) s := by cases b <;> rfl

theorem limb_offset_aligned (b : Bank) (i : Nat) : (bankOffset b + 4 * i) % 4 = 0 := by
  have halign : bankOffset b % 4 = 0 := by cases b <;> rfl
  omega

section

variable (s : State) {b : Bank} {i : Nat} (hi : i < s.params.limbs)

include hi

theorem limb_offset_lt (b : Bank) : bankOffset b + 4 * i < 0x8000 := by
  have := limbs_le s.params
  have := bankOffset_le b
  omega

theorem perform_rd32_limb : perform (Script.rd32 s.params (bankOffset b + 4 * i)) s =
    .next { s with readWords := limb (bankValue b s) i :: s.readWords } := by
  rw [Script.rd32, perform_read_base_add s (limb_offset_lt s hi b) (limb_offset_aligned b i),
    regAt_bankOffset_add b (limbs_le s.params) hi]
  rfl

theorem perform_wr32_limb (w : Word) : perform (Script.wr32 s.params (bankOffset b + 4 * i) w) s =
    .next (writeBank b (setLimb (bankValue b s) i w) s) := by
  rw [Script.wr32, perform_write_base_add s (limb_offset_lt s hi b) (limb_offset_aligned b i),
    regAt_bankOffset_add b (limbs_le s.params) hi, ← regWrite_limb]
  rfl

end

/-! ### The script lines as runs (R70) -/

/-- The turns that read the limbs `is`, taken one after the other. -/
theorem runSteps_reads {s : State} {b : Bank} {is : List Nat} (his : ∀ i ∈ is, i < s.params.limbs)
    (ha : s.agenda = is.map fun i => Script.rd32 s.params (bankOffset b + 4 * i)) :
    runSteps is.length s =
      .next { s with agenda := [], readWords := (is.map (limb (bankValue b s))).reverse ++ s.readWords } := by
  induction is generalizing s with
  | nil =>
    rw [List.map_nil] at ha
    simp [runSteps, ← ha]
  | cons i is ih =>
    obtain ⟨hi, his⟩ := List.forall_mem_cons.mp his
    have hread := perform_rd32_limb (b := b) { s with agenda := is.map fun i => Script.rd32 s.params (bankOffset b + 4 * i) } hi
    rw [List.length_cons, runSteps, step_of_agenda_cons (ha.trans (List.map_cons ..)), hread]
    refine (ih (s := { s with
      agenda := is.map fun i => Script.rd32 s.params (bankOffset b + 4 * i)
      readWords := limb (bankValue b s) i :: s.readWords }) his rfl).trans ?_
    have hvalue (l : List Event) (ws : List Word) : bankValue b { s with agenda := l, readWords := ws } = bankValue b s := by
      cases b <;> rfl
    simp [hvalue]

/-- The turns that write the limbs `is` of `v`, taken one after the other. -/
theorem runSteps_writes {s : State} {b : Bank} {is : List Nat} {v : Nat} (his : ∀ i ∈ is, i < s.params.limbs)
    (ha : s.agenda = is.map fun i => Script.wr32 s.params (bankOffset b + 4 * i) (limb v i)) :
    runSteps is.length s = .next { writeBank b (loadLimbs v is (bankValue b s)) s with agenda := [] } := by
  induction is generalizing s with
  | nil =>
    rw [List.map_nil] at ha
    cases b <;> simp [runSteps, loadLimbs, writeBank, bankValue, ← ha]
  | cons i is ih =>
    obtain ⟨hi, his⟩ := List.forall_mem_cons.mp his
    have hwrite := perform_wr32_limb (b := b)
      { s with agenda := is.map fun i => Script.wr32 s.params (bankOffset b + 4 * i) (limb v i) } hi (limb v i)
    rw [List.length_cons, runSteps, step_of_agenda_cons (ha.trans (List.map_cons ..)), hwrite]
    cases b <;> exact ih his rfl

/-- Settles O47: the limbs of the old value are replaced one by one, and no digit is left of it. -/
theorem wrbigLoadsTheWholeOperand : Obligations.WrbigLoadsTheWholeOperand := by
  rintro s v ⟨ha, he, hm, -⟩ hv
  have hload {x : Nat} (hx : x < 2 ^ s.params.nbits) : loadLimbs v (List.range s.params.limbs) x = v := loadLimbs_range_eq hv hx
  have hrun {b : Bank} (hag : s.agenda = Script.wrbig s.params b v) :=
    runSteps_writes (s := s) (b := b) (v := v) (fun i hi => List.mem_range.mp hi) hag
  simp only [List.length_range] at hrun
  refine ⟨fun h => (hrun h).trans ?_, fun h => (hrun h).trans ?_, fun h => (hrun h).trans ?_⟩ <;>
    simp only [writeBank, bankValue]
  · rw [hload ha]
  · rw [hload he]
  · rw [hload hm]

theorem bankValue_lt {s : State} (h : OperandsBounded s) (b : Bank) : bankValue b s < 2 ^ s.params.nbits := by
  obtain ⟨ha, he, hm, hr⟩ := h
  cases b
  · exact ha
  · exact he
  · exact hm
  · exact hr

/-- Settles O48: the words read are the digits of the register, all `L` of them. -/
theorem rdbigReturnsTheOperand : Obligations.RdbigReturnsTheOperand := by
  intro s b hbound hag
  have hrun := runSteps_reads (s := s) (b := b) (fun i hi => List.mem_range.mp hi) hag
  rw [List.length_range] at hrun
  refine ⟨_, by simp, ?_, hrun⟩
  rw [fromLimbs_map_limb]
  exact Nat.mod_eq_of_lt (bankValue_lt hbound b)

end Sys2Proof.Proofs.Limbs

/-! PROOFS. The bounds of R12, R102, R117, R143: they hold after reset, and every step keeps them. -/

namespace Sys2Proof.Proofs.Bounds

open Sys2Proof Sys2Proof.Machine Sys2Proof.Machine.Substrate Sys2Proof.Safety
open Sys2Proof.Proofs.Flags Sys2Proof.Proofs.Encoding Sys2Proof.Proofs.Modinv Sys2Proof.Proofs.Mrtest Sys2Proof.Proofs.Limbs

/-! ### The invariant, state by state of the sequencer -/

/-- What the tester's registers meet from the end of the decomposition on (R128, R143). -/
structure TesterBounded (nbits : Nat) (k : Mrt) : Prop where
  nc_ge      : 5 ≤ k.nc
  odd        : k.nc % 2 = 1
  nc_lt      : k.nc < 2 ^ nbits
  decomposes : Decomposes k.nc k.scnt k.d
  scnt_ge    : 1 ≤ k.scnt
  scnt_le    : k.scnt ≤ nbits - 1
  d_lt       : k.d < k.nc

/-- A round runs on an answer of the random source (R130, R132). -/
structure RoundBounded (nbits : Nat) (k : Mrt) : Prop where
  tester  : TesterBounded nbits k
  rndleft : k.rndleft ≠ 0
  drawn   : InDrawRange k.nc k.basev

/-- What `RegistersBounded` says of the units in each state of the sequencer; `registersBounded_iff` ties it to the model. -/
abbrev StageBounded (s : State) : SeqState → Prop
  | .idle => True
  | .meLoop =>
    (s.mee.acc < s.mee.mod ∧ s.mee.res < s.mee.mod ∧ 1 ≤ s.mee.mod ∧ s.mee.mod < 2 ^ s.params.nbits ∧
      s.mee.expr < 2 ^ s.params.nbits) ∧
    (s.mee.caller = .mrt → RoundBounded s.params.nbits s.mrt ∧ s.mee.mod = s.mrt.nc)
  | .miLoop =>
    s.miu.r0 < 2 ^ s.params.nbits ∧ s.miu.r1 < 2 ^ s.params.nbits ∧ 1 ≤ s.miu.mn ∧ s.miu.mn < 2 ^ s.params.nbits
  | .mrClassify => s.mrt.nc < 2 ^ s.params.nbits
  | .mrDecomp =>
    5 ≤ s.mrt.nc ∧ s.mrt.nc % 2 = 1 ∧ s.mrt.nc < 2 ^ s.params.nbits ∧ s.mrt.nc = 2 ^ s.mrt.scnt * s.mrt.d + 1
  | .mrRound => TesterBounded s.params.nbits s.mrt
  | .mrDraw => TesterBounded s.params.nbits s.mrt ∧ s.mrt.rndleft ≠ 0
  | .mrCheck => RoundBounded s.params.nbits s.mrt ∧ s.mrt.x < s.mrt.nc
  | .mrSquare => RoundBounded s.params.nbits s.mrt ∧ s.mrt.x < s.mrt.nc ∧ s.mrt.sqleft ≤ s.mrt.scnt - 1

theorem testerBounded_iff {nbits : Nat} {k : Mrt} : TesterBounded nbits k ↔
    5 ≤ k.nc ∧ k.nc % 2 = 1 ∧ k.nc < 2 ^ nbits ∧ Decomposes k.nc k.scnt k.d ∧ 1 ≤ k.scnt ∧ k.scnt ≤ nbits - 1 ∧ k.d < k.nc :=
  ⟨fun ⟨h1, h2, h3, h4, h5, h6, h7⟩ => ⟨h1, h2, h3, h4, h5, h6, h7⟩,
    fun ⟨h1, h2, h3, h4, h5, h6, h7⟩ => ⟨h1, h2, h3, h4, h5, h6, h7⟩⟩

theorem roundBounded_iff {nbits : Nat} {k : Mrt} :
    RoundBounded nbits k ↔ TesterBounded nbits k ∧ k.rndleft ≠ 0 ∧ InDrawRange k.nc k.basev :=
  ⟨fun ⟨h1, h2, h3⟩ => ⟨h1, h2, h3⟩, fun ⟨h1, h2, h3⟩ => ⟨h1, h2, h3⟩⟩

section

variable {s t : State}

/-- The clauses of the model's invariant about the tester, with its long one named. -/
theorem mrtBounded_iff : MrtBounded s ↔
    (s.seq = .mrClassify → s.mrt.nc < 2 ^ s.params.nbits) ∧
    (s.seq = .mrDecomp →
      5 ≤ s.mrt.nc ∧ s.mrt.nc % 2 = 1 ∧ s.mrt.nc < 2 ^ s.params.nbits ∧ s.mrt.nc = 2 ^ s.mrt.scnt * s.mrt.d + 1) ∧
    (InRounds s → TesterBounded s.params.nbits s.mrt) ∧
    (InRounds s → s.seq ≠ .mrRound → s.mrt.rndleft ≠ 0) ∧
    (s.seq = .meLoop → s.mee.caller = .mrt → s.mee.mod = s.mrt.nc ∧ InDrawRange s.mrt.nc s.mrt.basev) ∧
    (s.seq = .mrCheck → s.mrt.x < s.mrt.nc ∧ InDrawRange s.mrt.nc s.mrt.basev) ∧
    (s.seq = .mrSquare → s.mrt.x < s.mrt.nc ∧ s.mrt.sqleft ≤ s.mrt.scnt - 1 ∧ InDrawRange s.mrt.nc s.mrt.basev) := by
  rw [testerBounded_iff]

theorem registersBounded_iff : RegistersBounded s ↔ OperandsBounded s ∧ StageBounded s s.seq := by
  rw [RegistersBounded, mrtBounded_iff]
  refine and_congr_right fun _ => ?_
  cases hq : s.seq with
  | meLoop => cases hc : s.mee.caller <;> simp [MeeBounded, MiuBounded, InRounds, roundBounded_iff, hq, hc, and_comm, and_assoc]
  | idle | miLoop | mrClassify | mrDecomp | mrRound | mrDraw => simp [MeeBounded, MiuBounded, InRounds, hq]
  | mrCheck | mrSquare =>
    simp [MeeBounded, MiuBounded, InRounds, StageBounded, roundBounded_iff, hq, and_comm, and_left_comm, and_assoc]

/-! ### The sequencer's steps (R25) -/

theorem stageBounded_of_registersBounded {q : SeqState} (h : RegistersBounded s) (hq : s.seq = q) : StageBounded s q :=
  hq ▸ (registersBounded_iff.mp h).2

/-- A step that writes no operand keeps their bounds, so only the units' bounds are asked of it. -/
theorem registersBounded_of_frame (h : OperandsBounded s) (hp : t.params = s.params) (ha : t.a = s.a) (he : t.e = s.e)
    (hm : t.m = s.m) (hr : t.r = s.r) (hstage : StageBounded t t.seq) : RegistersBounded t := by
  refine registersBounded_iff.mpr ⟨?_, hstage⟩
  rw [OperandsBounded, hp, ha, he, hm, hr]
  exact h

theorem registersBounded_completeWithResult {v : Nat} (h : OperandsBounded s) (hv : v < 2 ^ s.params.nbits) :
    RegistersBounded (completeWithResult v s) :=
  registersBounded_iff.mpr ⟨⟨h.1, h.2.1, h.2.2.1, hv⟩, trivial⟩

theorem registersBounded_completeWithPrime (h : OperandsBounded s) (b : Bool) : RegistersBounded (completeWithPrime b s) :=
  registersBounded_of_frame h rfl rfl rfl rfl rfl trivial

theorem registersBounded_raiseError (h : OperandsBounded s) (k : ErrorKind) : RegistersBounded (raiseError k s) :=
  registersBounded_of_frame h rfl rfl rfl rfl rfl trivial

theorem registersBounded_mrtPass (h : OperandsBounded s) (ht : TesterBounded s.params.nbits s.mrt) :
    RegistersBounded (mrtPass s) :=
  registersBounded_of_frame h rfl rfl rfl rfl rfl ⟨ht.nc_ge, ht.odd, ht.nc_lt, ht.decomposes, ht.scnt_ge, ht.scnt_le, ht.d_lt⟩

theorem registersBounded_meeStep (h : OperandsBounded s) (hs : StageBounded s .meLoop) (hq : s.seq = .meLoop) :
    RegistersBounded (meeStep s) := by
  obtain ⟨⟨hacc, hres, hpos, hmod, hexpr⟩, htester⟩ := hs
  rcases meeStep_cases s with ⟨-, ht⟩ | ⟨-, -, ht⟩ | ⟨-, hc, ht⟩ <;> rw [ht]
  · refine registersBounded_of_frame h rfl rfl rfl rfl rfl ?_
    rw [hq]
    refine ⟨⟨mulmod_lt hpos, ?_, hpos, hmod, (Nat.div_le_self _ _).trans_lt hexpr⟩, htester⟩
    simp only [meeLoop]
    split
    · exact mulmod_lt hpos
    · exact hres
  · exact registersBounded_completeWithResult h (hres.trans hmod)
  · obtain ⟨⟨⟨h1, h2, h3, h4, h5, h6, h7⟩, hleft, hdrawn⟩, hnc⟩ := htester hc
    exact registersBounded_of_frame h rfl rfl rfl rfl rfl ⟨⟨⟨h1, h2, h3, h4, h5, h6, h7⟩, hleft, hdrawn⟩, hnc ▸ hres⟩

theorem registersBounded_miuStep (h : OperandsBounded s) (hs : StageBounded s .miLoop) (hq : s.seq = .miLoop) :
    RegistersBounded (miuStep s) := by
  obtain ⟨h0, h1, hpos, hmn⟩ := hs
  rcases miuStep_cases s with ⟨hr, ht⟩ | ⟨-, -, ht⟩ | ⟨-, -, ht⟩ <;> rw [ht]
  · have hr1 := Nat.pos_of_ne_zero hr
    refine registersBounded_of_frame h rfl rfl rfl rfl rfl ?_
    rw [hq, miuLoop_of_pos hr1]
    exact ⟨h1, (Nat.mod_lt _ hr1).trans h1, hpos, hmn⟩
  · exact registersBounded_completeWithResult h ((emod_lt hpos).trans hmn)
  · exact registersBounded_raiseError h _

theorem registersBounded_mrtClassify (h : OperandsBounded s) (hs : StageBounded s .mrClassify) :
    RegistersBounded (mrtClassify s) := by
  rcases mrtClassify_cases s with ⟨b, ht, -⟩ | ⟨hn, hodd, ht⟩ <;> rw [ht]
  · exact registersBounded_completeWithPrime h b
  · refine registersBounded_of_frame h rfl rfl rfl rfl rfl ⟨hn, hodd, hs, ?_⟩
    simp only [pow_zero]
    omega

/-- The end of the decomposition: `NC - 1` is even and has at most `NBITS` bits, `SCNT` of them the low zeros (R128, R143). -/
theorem testerBounded_of_decomposes {nbits : Nat} {k : Mrt} (hn : 5 ≤ k.nc) (hodd : k.nc % 2 = 1) (hlt : k.nc < 2 ^ nbits)
    (hdec : Decomposes k.nc k.scnt k.d) : TesterBounded nbits k := by
  have hscnt := one_le_scnt hodd hdec
  have hlen := scnt_lt_bitlen hn hodd hdec
  have hbits := bitlen_le_iff.mpr hlt
  have hd : k.d ≤ 2 ^ k.scnt * k.d := Nat.le_mul_of_pos_left _ (by positivity)
  exact ⟨hn, hodd, hlt, hdec, hscnt, by omega, by rw [hdec.1]; omega⟩

theorem registersBounded_mrtDecomp (h : OperandsBounded s) (hs : StageBounded s .mrDecomp) (hq : s.seq = .mrDecomp) :
    RegistersBounded (mrtDecomp s) := by
  obtain ⟨hn, hodd, hlt, hdec⟩ := hs
  rcases mrtDecomp_cases s with ⟨heven, ht⟩ | ⟨hd, ht⟩ <;> rw [ht]
  · refine registersBounded_of_frame h rfl rfl rfl rfl rfl ?_
    rw [hq]
    refine ⟨hn, hodd, hlt, ?_⟩
    rw [pow_succ, mul_assoc, Nat.mul_div_cancel' (Nat.dvd_of_mod_eq_zero heven)]
    exact hdec
  · exact registersBounded_of_frame h rfl rfl rfl rfl rfl (testerBounded_of_decomposes hn hodd hlt ⟨hdec, hd⟩)

theorem registersBounded_mrtRound (h : OperandsBounded s) (hs : StageBounded s .mrRound) : RegistersBounded (mrtRound s) := by
  rcases mrtRound_cases s with ⟨-, ht⟩ | ⟨hleft, ht⟩ <;> rw [ht]
  · exact registersBounded_completeWithPrime h true
  · exact registersBounded_of_frame h rfl rfl rfl rfl rfl ⟨hs, hleft⟩

theorem registersBounded_mrtDraw {v : Nat} (h : OperandsBounded s) (hs : StageBounded s .mrDraw)
    (hv : InDrawRange s.mrt.nc v) : RegistersBounded (mrtDraw v s) := by
  obtain ⟨⟨h1, h2, h3, h4, h5, h6, h7⟩, hleft⟩ := hs
  have hpos : 0 < s.mrt.nc := by omega
  exact registersBounded_of_frame h rfl rfl rfl rfl rfl
    ⟨⟨mod_lt hpos, mod_lt hpos, hpos, h3, h7.trans h3⟩, fun _ => ⟨⟨⟨h1, h2, h3, h4, h5, h6, h7⟩, hleft, hv⟩, rfl⟩⟩

theorem registersBounded_mrtCheck (h : OperandsBounded s) (hs : StageBounded s .mrCheck) : RegistersBounded (mrtCheck s) := by
  obtain ⟨⟨htester, hleft, hdrawn⟩, hx⟩ := hs
  rcases mrtCheck_cases s with ⟨-, ht⟩ | ⟨-, ht⟩ <;> rw [ht]
  · exact registersBounded_mrtPass h htester
  · obtain ⟨h1, h2, h3, h4, h5, h6, h7⟩ := htester
    exact registersBounded_of_frame h rfl rfl rfl rfl rfl
      ⟨⟨⟨h1, h2, h3, h4, h5, h6, h7⟩, hleft, hdrawn⟩, hx, (sub_of_le h5).le⟩

theorem registersBounded_mrtSquare (h : OperandsBounded s) (hs : StageBounded s .mrSquare) (hq : s.seq = .mrSquare) :
    RegistersBounded (mrtSquare s) := by
  obtain ⟨⟨⟨h1, h2, h3, h4, h5, h6, h7⟩, hleft, hdrawn⟩, hx, hsq⟩ := hs
  rcases mrtSquare_cases s with ⟨-, ht⟩ | ⟨-, t, rfl, ⟨-, ht⟩ | ⟨-, ht⟩⟩ <;> rw [ht]
  · exact registersBounded_completeWithPrime h false
  · exact registersBounded_mrtPass h ⟨h1, h2, h3, h4, h5, h6, h7⟩
  · refine registersBounded_of_frame h rfl rfl rfl rfl rfl ?_
    rw [hq]
    exact ⟨⟨⟨h1, h2, h3, h4, h5, h6, h7⟩, hleft, hdrawn⟩, mulmod_lt (by omega), (Nat.sub_le _ _).trans hsq⟩

theorem registersBounded_sequencerStep (h : RegistersBounded s) : RegistersBounded (sequencerStep s) := by
  have ho := h.1
  rcases sequencerStep_cases s with ⟨-, ht⟩ | ⟨hq, ht⟩ | ⟨hq, ht⟩ | ⟨hq, ht⟩ | ⟨hq, ht⟩ | ⟨hq, ht⟩ | ⟨hq, ht⟩ | ⟨hq, ht⟩
    <;> rw [ht]
  · exact h
  · exact registersBounded_meeStep ho (stageBounded_of_registersBounded h hq) hq
  · exact registersBounded_miuStep ho (stageBounded_of_registersBounded h hq) hq
  · exact registersBounded_mrtClassify ho (stageBounded_of_registersBounded h hq)
  · exact registersBounded_mrtDecomp ho (stageBounded_of_registersBounded h hq) hq
  · exact registersBounded_mrtRound ho (stageBounded_of_registersBounded h hq)
  · exact registersBounded_mrtCheck ho (stageBounded_of_registersBounded h hq)
  · exact registersBounded_mrtSquare ho (stageBounded_of_registersBounded h hq) hq

/-! ### The turns (R51) -/

theorem registersBounded_exec (i : Instr) (h : RegistersBounded s) (hx : exec i s = .next t) : RegistersBounded t := by
  by_cases hq : s.seq = .idle
  · have ho : OperandsBounded s := h.1
    have ⟨ha, he, hm, _⟩ := ho
    cases i with
    | modexp =>
      rw [exec_modexp_idle hq] at hx
      cases hx
      by_cases hz : s.m = 0
      · rw [modexpAccept_zero (s := acceptCommon 1 s) hz]
        exact registersBounded_raiseError (s := acceptCommon 1 s) ho _
      · have hpos := Nat.pos_of_ne_zero hz
        rw [modexpAccept_pos (s := acceptCommon 1 s) hz]
        exact registersBounded_of_frame ho rfl rfl rfl rfl rfl
          ⟨⟨mod_lt hpos, mod_lt hpos, hpos, hm, he⟩, fun hc => nomatch hc⟩
    | modinv =>
      rw [exec_modinv_idle hq] at hx
      cases hx
      by_cases hz : s.m = 0
      · rw [modinvAccept_zero (s := acceptCommon 2 s) hz]
        exact registersBounded_raiseError (s := acceptCommon 2 s) ho _
      · rw [modinvAccept_pos (s := acceptCommon 2 s) hz]
        exact registersBounded_of_frame ho rfl rfl rfl rfl rfl ⟨ha, hm, Nat.pos_of_ne_zero hz, hm⟩
    | mrtest =>
      rw [exec_mrtest_idle hq] at hx
      cases hx
      exact registersBounded_of_frame ho rfl rfl rfl rfl rfl hm
  · rw [exec_busy hq] at hx
    cases hx
    exact h

theorem registersBounded_acceptIllegal (w : Word) (h : RegistersBounded s) : RegistersBounded (acceptIllegal w s) := by
  unfold acceptIllegal
  by_cases hq : s.seq = .idle
  · rw [acceptWord_idle hq]
    exact registersBounded_raiseError (s := acceptCommon w s) h.1 _
  · rwa [acceptWord_busy hq]

/-- A limb the map names is one of the `L` limbs (R41). -/
theorem lt_of_regAt_eq_limb {limbs off i : Nat} {b : Bank} (h : regAt limbs off = .limb b i) : i < limbs := by
  unfold regAt at h
  split_ifs at h <;> cases h <;> omega

theorem registersBounded_regWrite {g : Reg} (w : Word) (h : RegistersBounded s)
    (hg : ∀ b i, g = .limb b i → i < s.params.limbs) : RegistersBounded (regWrite g w s) := by
  cases g with
  | limb b i =>
    obtain ⟨⟨ha, he, hm, hr⟩, hstage⟩ := registersBounded_iff.mp h
    have hnew := setLimb_lt w (hg b i rfl) (bankValue_lt h.1 b)
    rw [regWrite_limb]
    refine registersBounded_iff.mpr ?_
    cases b with
    | a => exact ⟨⟨hnew, he, hm, hr⟩, hstage⟩
    | e => exact ⟨⟨ha, hnew, hm, hr⟩, hstage⟩
    | m => exact ⟨⟨ha, he, hnew, hr⟩, hstage⟩
    | r => exact ⟨⟨ha, he, hm, hr⟩, hstage⟩
  | cmd | status | err | rounds | cap | reserved => exact h

theorem registersBounded_writeReg {off : Nat} {w : Word} (h : RegistersBounded s)
    (hw : writeReg (regAt s.params.limbs off) w s = .next t) : RegistersBounded t := by
  by_cases hg : regAt s.params.limbs off = .cmd
  · rw [hg, writeReg_cmd] at hw
    rcases writeCommand_cases w s with ⟨i, -, hx⟩ | ⟨_, -, hx⟩ <;> rw [hx] at hw
    · exact registersBounded_exec i h hw
    · cases hw
      exact registersBounded_acceptIllegal w h
  · rw [writeReg_of_ne hg] at hw
    cases hw
    exact registersBounded_regWrite w h fun _ _ => lt_of_regAt_eq_limb

theorem registersBounded_rngAnswer {v : Nat} (h : RegistersBounded s) (hv : rngAnswer v s = .next t) : RegistersBounded t := by
  rcases rngAnswer_next hv with ⟨-, rfl⟩ | ⟨hq, hlo, hhi, rfl⟩
  · exact h
  · exact registersBounded_mrtDraw h.1 (stageBounded_of_registersBounded h hq) ⟨hlo, hhi⟩

theorem registersBounded_resetOf (p : Config.Params) : RegistersBounded (State.resetOf p) := by
  have hpos : 0 < 2 ^ p.nbits := by positivity
  exact registersBounded_iff.mpr ⟨⟨hpos, hpos, hpos, hpos⟩, trivial⟩

theorem registersBounded_perform {v : Event} (h : RegistersBounded s) (hp : perform v s = .next t) : RegistersBounded t := by
  rcases perform_next hp with ⟨_, _, _, -, -, hw⟩ | ⟨_, _, -, -, rfl⟩ | ⟨_, -, hv⟩ | ⟨-, rfl⟩ | ⟨-, rfl⟩
  · exact registersBounded_writeReg h hw
  · exact h
  · exact registersBounded_rngAnswer h hv
  · exact registersBounded_resetOf s.params
  · exact registersBounded_sequencerStep h

end

/-- Settles O54: each step of a unit keeps its bounds, an accept starts the unit within them, a host write stays in its limb. -/
theorem stepKeepsRegistersBounded : Obligations.StepKeepsRegistersBounded := by
  intro s t h hstep
  rcases step_next hstep with ⟨-, rfl⟩ | ⟨v, rest, -, hp⟩
  · exact registersBounded_sequencerStep h
  · exact registersBounded_perform (s := { s with agenda := rest }) h hp

theorem visibleConsistent_resetOf (p : Config.Params) : VisibleConsistent (State.resetOf p) :=
  resetBlock_visibleConsistent (State.resetOf p)

/-- Settles O53: after reset the sequencer is idle, so no unit has a bound to meet, and no flag is set. -/
theorem resetMeetsTheInvariants : Obligations.ResetMeetsTheInvariants := by
  have hreset (p : Config.Params) : RegistersBounded (State.resetOf p) ∧ VisibleConsistent (State.resetOf p) :=
    ⟨registersBounded_resetOf p, visibleConsistent_resetOf p⟩
  refine ⟨hreset, ?_⟩
  rw [State.reset]
  exact hreset Config.Params.default

end Sys2Proof.Proofs.Bounds

/-! PROOFS. The last rule of 10_state.md section 7: no step reads what an earlier command left in a working register. -/

namespace Sys2Proof.Proofs.Stale

open Sys2Proof Sys2Proof.Machine Sys2Proof.Machine.Substrate Sys2Proof.Safety
open Sys2Proof.Proofs.Encoding Sys2Proof.Proofs.Mrtest

/-! ### The relation: the same view, and the same live registers -/

/-- The tester's registers that live from the decomposition to the completion are the same. -/
structure SameTest (k k' : Mrt) : Prop where
  nc      : k.nc = k'.nc
  d       : k.d = k'.d
  scnt    : k.scnt = k'.scnt
  rndleft : k.rndleft = k'.rndleft

/-- In each state of the sequencer, the working registers that a later step can read are the same; the others are stale. -/
abbrev SameLive (s s' : State) : SeqState → Prop
  | .idle => True
  | .meLoop => s.mee = s'.mee ∧ (s.mee.caller = .mrt → SameTest s.mrt s'.mrt)
  | .miLoop => s.miu = s'.miu
  | .mrClassify => s.mrt.nc = s'.mrt.nc ∧ s.mrt.rndleft = s'.mrt.rndleft
  | .mrDecomp | .mrRound | .mrDraw => SameTest s.mrt s'.mrt
  | .mrCheck => SameTest s.mrt s'.mrt ∧ s.mrt.x = s'.mrt.x
  | .mrSquare => SameTest s.mrt s'.mrt ∧ s.mrt.x = s'.mrt.x ∧ s.mrt.sqleft = s'.mrt.sqleft

/-- Two blocks that the host cannot tell apart, now or later. -/
def LooksAlike (s s' : State) : Prop := view s = view s' ∧ SameLive s s' s.seq

section

variable {s s' : State}

theorem LooksAlike.live {q : SeqState} (h : LooksAlike s s') (hq : s.seq = q) : SameLive s s' q := hq ▸ h.2

theorem LooksAlike.seq (h : LooksAlike s s') : s.seq = s'.seq := congrArg View.seq h.1

/-- The host's turns are no part of the block. -/
theorem LooksAlike.clear_agenda (h : LooksAlike s s') : LooksAlike { s with agenda := [] } { s' with agenda := [] } := h

/-! ### Steps that keep it -/

variable (hv : view s = view s')

include hv

/-- A step that moves the sequencer and writes working registers only. -/
theorem looksAlike_move {q : SeqState} {mee mee' : Mee} {miu miu' : Miu} {mrt mrt' : Mrt}
    (hlive : SameLive { s with seq := q, mee := mee, miu := miu, mrt := mrt }
      { s' with seq := q, mee := mee', miu := miu', mrt := mrt' } q) :
    LooksAlike { s with seq := q, mee := mee, miu := miu, mrt := mrt }
      { s' with seq := q, mee := mee', miu := miu', mrt := mrt' } :=
  ⟨congrArg (fun v : View => { v with seq := q }) hv, hlive⟩

theorem looksAlike_completeWithResult (v : Nat) : LooksAlike (completeWithResult v s) (completeWithResult v s') :=
  ⟨congrArg (fun x : View => { x with r := v, done := true, seq := .idle }) hv, trivial⟩

theorem looksAlike_completeWithPrime (b : Bool) : LooksAlike (completeWithPrime b s) (completeWithPrime b s') :=
  ⟨congrArg (fun x : View => { x with prime := b, done := true, seq := .idle }) hv, trivial⟩

theorem looksAlike_raiseError (k : ErrorKind) : LooksAlike (raiseError k s) (raiseError k s') :=
  ⟨congrArg (fun x : View => { x with err := errorCode k, done := true, seq := .idle }) hv, trivial⟩

theorem looksAlike_mrtPass (h : SameTest s.mrt s'.mrt) : LooksAlike (mrtPass s) (mrtPass s') :=
  looksAlike_move hv ⟨h.nc, h.d, h.scnt, by rw [h.rndleft]⟩

theorem looksAlike_meeStep (h : SameLive s s' .meLoop) (hq : s.seq = .meLoop) : LooksAlike (meeStep s) (meeStep s') := by
  obtain ⟨hmee, htest⟩ := h
  rcases meeStep_cases s with ⟨hexpr, ht⟩ | ⟨hexpr, hc, ht⟩ | ⟨hexpr, hc, ht⟩
  · rw [ht, meeStep, ← hmee, if_pos hexpr]
    refine ⟨hv, ?_⟩
    rw [hq]
    exact ⟨rfl, htest⟩
  · rw [ht, meeStep, ← hmee, if_neg (not_not.mpr hexpr), hc]
    exact looksAlike_completeWithResult hv _
  · rw [ht, meeStep, ← hmee, if_neg (not_not.mpr hexpr), hc]
    have ⟨hnc, hd, hscnt, hleft⟩ := htest hc
    exact looksAlike_move hv ⟨⟨hnc, hd, hscnt, hleft⟩, rfl⟩

theorem looksAlike_miuStep (h : s.miu = s'.miu) (hq : s.seq = .miLoop) : LooksAlike (miuStep s) (miuStep s') := by
  unfold miuStep
  rw [h]
  split
  · refine ⟨hv, ?_⟩
    rw [hq]
  · split
    · exact looksAlike_completeWithResult hv _
    · exact looksAlike_raiseError hv _

theorem looksAlike_mrtClassify (h : SameLive s s' .mrClassify) : LooksAlike (mrtClassify s) (mrtClassify s') := by
  obtain ⟨hnc, hleft⟩ := h
  unfold mrtClassify
  rw [hnc]
  split
  · exact looksAlike_completeWithPrime hv false
  split
  · exact looksAlike_completeWithPrime hv true
  split
  · exact looksAlike_completeWithPrime hv false
  · exact looksAlike_move hv ⟨hnc, rfl, rfl, hleft⟩

theorem looksAlike_mrtDecomp (h : SameTest s.mrt s'.mrt) (hq : s.seq = .mrDecomp) :
    LooksAlike (mrtDecomp s) (mrtDecomp s') := by
  unfold mrtDecomp
  rw [h.d]
  split
  · refine ⟨hv, ?_⟩
    rw [hq]
    exact ⟨h.nc, rfl, congrArg (· + 1) h.scnt, h.rndleft⟩
  · exact looksAlike_move hv h

theorem looksAlike_mrtRound (h : SameTest s.mrt s'.mrt) : LooksAlike (mrtRound s) (mrtRound s') := by
  unfold mrtRound
  rw [h.rndleft]
  split
  · exact looksAlike_completeWithPrime hv true
  · exact looksAlike_move hv h

theorem looksAlike_mrtDraw (h : SameTest s.mrt s'.mrt) (v : Nat) : LooksAlike (mrtDraw v s) (mrtDraw v s') := by
  refine looksAlike_move hv ⟨?_, fun _ => ⟨h.nc, h.d, h.scnt, h.rndleft⟩⟩
  simp only [h.nc, h.d]

theorem looksAlike_mrtCheck (h : SameLive s s' .mrCheck) : LooksAlike (mrtCheck s) (mrtCheck s') := by
  obtain ⟨htest, hx⟩ := h
  unfold mrtCheck
  rw [hx, htest.nc]
  split
  · exact looksAlike_mrtPass hv htest
  · exact looksAlike_move hv ⟨⟨htest.nc, htest.d, htest.scnt, htest.rndleft⟩, hx, by rw [htest.scnt]⟩

theorem looksAlike_mrtSquare (h : SameLive s s' .mrSquare) (hq : s.seq = .mrSquare) :
    LooksAlike (mrtSquare s) (mrtSquare s') := by
  obtain ⟨⟨hnc, hd, hscnt, hleft⟩, hx, hsq⟩ := h
  unfold mrtSquare
  simp only [hsq, hx, hnc]
  split
  · exact looksAlike_completeWithPrime hv false
  split
  · exact looksAlike_mrtPass (s := { s with mrt := _ }) (s' := { s' with mrt := _ }) hv ⟨rfl, hd, hscnt, hleft⟩
  · refine ⟨hv, ?_⟩
    rw [hq]
    exact ⟨⟨rfl, hd, hscnt, hleft⟩, rfl, rfl⟩

theorem view_acceptCommon (w : Word) : view (acceptCommon w s) = view (acceptCommon w s') :=
  congrArg (fun x : View => { x with cmdreg := w, done := false, err := 0, prime := false }) hv

theorem looksAlike_modexpAccept : LooksAlike (modexpAccept s) (modexpAccept s') := by
  have ha : s.a = s'.a := congrArg View.a hv
  have he : s.e = s'.e := congrArg View.e hv
  have hm : s.m = s'.m := congrArg View.m hv
  unfold modexpAccept
  rw [ha, he, hm]
  split
  · exact looksAlike_raiseError hv _
  · exact looksAlike_move hv ⟨rfl, fun hc => nomatch hc⟩

theorem looksAlike_modinvAccept : LooksAlike (modinvAccept s) (modinvAccept s') := by
  have ha : s.a = s'.a := congrArg View.a hv
  have hm : s.m = s'.m := congrArg View.m hv
  unfold modinvAccept
  rw [ha, hm]
  split
  · exact looksAlike_raiseError hv _
  · exact looksAlike_move hv rfl

theorem looksAlike_mrtestAccept : LooksAlike (mrtestAccept s) (mrtestAccept s') :=
  looksAlike_move hv ⟨congrArg View.m hv, congrArg View.rounds hv⟩

omit hv

theorem LooksAlike.step (h : LooksAlike s s') : LooksAlike (sequencerStep s) (sequencerStep s') := by
  rw [sequencerStep, sequencerStep, ← h.seq]
  cases hq : s.seq with
  | idle | mrDraw => exact h
  | meLoop => exact looksAlike_meeStep h.1 (h.live hq) hq
  | miLoop => exact looksAlike_miuStep h.1 (h.live hq) hq
  | mrClassify => exact looksAlike_mrtClassify h.1 (h.live hq)
  | mrDecomp => exact looksAlike_mrtDecomp h.1 (h.live hq) hq
  | mrRound => exact looksAlike_mrtRound h.1 (h.live hq)
  | mrCheck => exact looksAlike_mrtCheck h.1 (h.live hq)
  | mrSquare => exact looksAlike_mrtSquare h.1 (h.live hq) hq

end

/-! ### Two runs side by side -/

/-- What the host can see of a driven run: the view of the state reached, and the answers not taken. -/
def visible (p : State × List Nat) : View × List Nat := (view p.1, p.2)

theorem LooksAlike.drive {s s' : State} {draws : List Nat} {k : Nat} (h : LooksAlike s s') :
    (drive k draws s).map visible = (drive k draws s').map visible := by
  induction k generalizing s s' draws with
  | zero => exact congrArg (fun x => some (x, draws)) h.1
  | succ k ih =>
    by_cases hwait : s.seq = .mrDraw → draws = []
    · rw [drive_sequencer hwait, drive_sequencer (h.seq ▸ hwait)]
      exact ih h.clear_agenda.step
    · obtain ⟨hq, hne⟩ := Classical.not_imp.mp hwait
      obtain ⟨v, rest, rfl⟩ := List.exists_cons_of_ne_nil hne
      have hq' : s'.seq = .mrDraw := h.seq ▸ hq
      have htest : SameTest s.mrt s'.mrt := h.live hq
      by_cases hv : InDrawRange s.mrt.nc v
      · rw [drive_answer hq hv, drive_answer hq' (htest.nc ▸ hv)]
        exact ih (looksAlike_mrtDraw h.clear_agenda.1 htest v)
      · rw [drive_refused hq hv, drive_refused hq' (htest.nc ▸ hv)]

/-- The accepts write every register that lives in the state they lead to. -/
theorem looksAlike_exec (i : Instr) {s s' : State} (hq : s.seq = .idle) (hv : view s = view s') :
    ∃ t t', exec i s = .next t ∧ exec i s' = .next t' ∧ LooksAlike t t' := by
  have hq' : s'.seq = .idle := (congrArg View.seq hv).symm.trans hq
  cases i with
  | modexp =>
    exact ⟨_, _, exec_modexp_idle hq, exec_modexp_idle hq', looksAlike_modexpAccept (view_acceptCommon hv 1)⟩
  | modinv =>
    exact ⟨_, _, exec_modinv_idle hq, exec_modinv_idle hq', looksAlike_modinvAccept (view_acceptCommon hv 2)⟩
  | mrtest =>
    exact ⟨_, _, exec_mrtest_idle hq, exec_mrtest_idle hq', looksAlike_mrtestAccept (view_acceptCommon hv 3)⟩

/-- Settles O50: an accept makes the live registers alike, and every step of the run keeps them so. -/
theorem staleWorkingRegistersAreUnobservable : Obligations.StaleWorkingRegistersAreUnobservable := by
  intro i s s' draws k hq hv
  obtain ⟨t, t', hx, hx', h⟩ := looksAlike_exec i hq hv
  exact ⟨t, t', hx, hx', h.drive⟩

end Sys2Proof.Proofs.Stale

/-! PROOFS. The statements of 30_encoding.md sections 1 to 3, and the cost of MODEXP (41_modexp.md section 4). -/

namespace Sys2Proof.Proofs.Words

open Sys2Proof Sys2Proof.Machine Sys2Proof.Machine.Substrate Sys2Proof.Safety Sys2Proof.Proofs.Encoding

/-! ### The opcode map (R62) -/

/-- Settles O1: each word's two fields are read off its bits. -/
theorem commandWordsDecode : Obligations.CommandWordsDecode := by
  unfold Obligations.CommandWordsDecode
  decide

/-- Settles O3: no command is ill formed, so the round trip is that of every command. -/
theorem decodeEncodeRoundTrip : Obligations.DecodeEncodeRoundTrip := fun i _ => decode_encode i

theorem encode_eq_matchWord (i : Instr) : encode i = matchWord i := by cases i <;> decide

/-- Every row's mask asks for all 32 bits. -/
theorem and_maskWord (w : Word) (i : Instr) : w &&& maskWord i = w := by cases i <;> exact BitVec.and_allOnes

theorem exists_eq_matchWord_iff (w : Word) : (∃ i, w = matchWord i) ↔ w = 1 ∨ w = 2 ∨ w = 3 := by
  constructor
  · rintro ⟨i, rfl⟩
    cases i with
    | modexp => exact .inl rfl
    | modinv => exact .inr (.inl rfl)
    | mrtest => exact .inr (.inr rfl)
  · rintro (rfl | rfl | rfl)
    · exact ⟨.modexp, rfl⟩
    · exact ⟨.modinv, rfl⟩
    · exact ⟨.mrtest, rfl⟩

/-- Settles O2: the mask keeps the whole word, so a word selects a command exactly when it is the command's own. -/
theorem wordSelectsCommandByMaskAndMatch : Obligations.WordSelectsCommandByMaskAndMatch := by
  refine ⟨fun w i => ?_, fun w => ?_⟩
  · rw [and_maskWord, decode_eq_command_iff, encode_eq_matchWord]
  · simp only [decode_eq_command_iff, encode_eq_matchWord]
    exact exists_eq_matchWord_iff w

/-! ### The cost of MODEXP (R103) -/

/-- The least significant bit, and the bits left after it is consumed. -/
theorem popcount_eq_bit0_add {v : Nat} (h : v ≠ 0) : popcount v = bit0 v + popcount (shr1 v) := by
  have hshift : (fun i => v.testBit i) ∘ Nat.succ = fun i => (shr1 v).testBit i := by
    funext i
    exact Nat.testBit_succ v i
  have hlow : (if v.testBit 0 = true then 1 else 0) = bit0 v := by
    have := Nat.mod_two_eq_zero_or_one v
    simp only [Nat.testBit_zero, decide_eq_true_eq, bit0]
    split <;> omega
  rw [popcount, bitlen_shr1 h, List.range_succ_eq_map, List.countP_cons, List.countP_map, hshift, hlow, Nat.add_comm, popcount]

theorem popcount_le_bitlen (v : Nat) : popcount v ≤ bitlen v :=
  List.countP_le_length.trans (List.length_range).le

/-- A loop step squares once and multiplies once more for a 1 bit; the end step makes no multiplication. -/
theorem multsOver_engine {s : State} (hq : s.seq = .meLoop) :
    multsOver (bitlen s.mee.expr + 1) s = bitlen s.mee.expr + popcount s.mee.expr := by
  generalize hn : bitlen s.mee.expr = n
  induction n generalizing s with
  | zero =>
    have hexpr : s.mee.expr = 0 := by have := bitlen_le_iff.mp hn.le; omega
    simp [multsOver, meeMults, hexpr, popcount]
  | succ n ih =>
    have hexpr : s.mee.expr ≠ 0 := by intro h; simp [h] at hn
    have hlen := bitlen_shr1 hexpr
    have hstep : sequencerStep s = { s with mee := meeLoop s.mee } := Modexp.sequencerStep_engine_loop hq hexpr
    have hrest := ih (s := { s with mee := meeLoop s.mee }) hq (by simp only [meeLoop]; omega)
    rw [multsOver, hstep, hrest, meeMults, if_pos ⟨hq, hexpr⟩, popcount_eq_bit0_add hexpr]
    simp only [meeLoop]
    omega

/-- Settles O14: the engine consumes the bits of `E` one by one, and pays for each as R98 says. -/
theorem modexpMultiplicationCount : Obligations.ModexpMultiplicationCount := by
  refine fun s hq hm => ⟨_, exec_modexp_idle_pos hq hm, multsOver_engine rfl, ?_⟩
  have := popcount_le_bitlen s.e
  omega

end Sys2Proof.Proofs.Words

/-! PROOFS. The statements of 20_memory.md sections 3 to 5 and of ROUNDS and CAP (10_state.md section 4): one host access. -/

namespace Sys2Proof.Proofs.Access

open Sys2Proof Sys2Proof.Machine Sys2Proof.Safety
open Sys2Proof.Proofs.Flags Sys2Proof.Proofs.Memory Sys2Proof.Proofs.Encoding Sys2Proof.Proofs.Limbs

/-! ### Which accesses are refused (R45) -/

section

variable {s : State} {addr size : Nat}

theorem busOffset_of_accessWf (h : accessWf s.params addr size = true) :
    busOffset s.params addr size = .ok (addr - s.params.base) := busOffset_ok_iff.mpr ⟨h, rfl⟩

theorem busOffset_of_not_accessWf (h : accessWf s.params addr size = false) :
    ∃ why, busOffset s.params addr size = .error why := by
  cases ho : busOffset s.params addr size with
  | error why => exact ⟨why, rfl⟩
  | ok off => exact absurd (busOffset_ok_iff.mp ho).1 (by simp [h])

theorem perform_read_of_accessWf (h : accessWf s.params addr size = true) :
    perform (.read addr size) s =
      .next { s with readWords := regRead (regAt s.params.limbs (addr - s.params.base)) s :: s.readWords } := by
  simp only [perform, memRead, busOffset_of_accessWf h]

theorem perform_write_of_accessWf (w : Word) (h : accessWf s.params addr size = true) :
    perform (.write addr size w) s = writeReg (regAt s.params.limbs (addr - s.params.base)) w s := by
  simp only [perform, memWrite, busOffset_of_accessWf h]

theorem writeCommand_total (w : Word) (s : State) : ∃ t, writeCommand w s = .next t := by
  rcases writeCommand_cases w s with ⟨i, -, h⟩ | ⟨_, -, h⟩
  · exact ⟨_, h.trans (exec_eq i s)⟩
  · exact ⟨_, h⟩

/-- No register refuses a word. -/
theorem writeReg_total (g : Reg) (w : Word) (s : State) : ∃ t, writeReg g w s = .next t := by
  by_cases hg : g = .cmd
  · rw [hg, writeReg_cmd]
    exact writeCommand_total w s
  · exact ⟨_, writeReg_of_ne hg w s⟩

end

/-- Settles O41: the offset of an access is formed exactly when the access is well formed, and with it nothing is refused. -/
theorem accessIsRefusedExactlyWhenMalformed : Obligations.AccessIsRefusedExactlyWhenMalformed := by
  intro s addr size w
  refine ⟨fun h => ?_, fun h => ⟨⟨_, perform_read_of_accessWf h⟩, ?_⟩⟩
  · obtain ⟨why, hwhy⟩ := busOffset_of_not_accessWf h
    exact ⟨⟨why, by simp only [perform, memRead, hwhy]⟩, ⟨why, by simp only [perform, memWrite, hwhy]⟩⟩
  · rw [perform_write_of_accessWf w h]
    exact writeReg_total _ w s

/-! ### What a read depends on (R33, R48) -/

/-- No register of the map shows a working register, a turn or an earlier read. -/
theorem regRead_eq_of_view_eq {s t : State} (hv : view s = view t) (hp : s.params = t.params) (g : Reg) :
    regRead g s = regRead g t := by
  have hstatus : statusWord s = statusWord t := by
    have hq : s.seq = t.seq := congrArg View.seq hv
    have hd : s.done = t.done := congrArg View.done hv
    have he : s.err = t.err := congrArg View.err hv
    have hpr : s.prime = t.prime := congrArg View.prime hv
    rw [statusWord, statusWord, busy, busy, errf, errf, hq, hd, he, hpr]
  cases g with
  | cmd => exact congrArg View.cmdreg hv
  | status => exact hstatus
  | err => exact congrArg (fun v => v.err.setWidth 32) hv
  | rounds => exact congrArg (fun v => v.rounds.setWidth 32) hv
  | cap => exact congrArg (fun p => BitVec.ofNat 32 p.limbs) hp
  | limb b i => cases b with
    | a => exact congrArg (fun v => limb v.a i) hv
    | e => exact congrArg (fun v => limb v.e i) hv
    | m => exact congrArg (fun v => limb v.m i) hv
    | r => exact congrArg (fun v => limb v.r i) hv
  | reserved => rfl

theorem memRead_eq_of_view_eq {s t : State} (hv : view s = view t) (hp : s.params = t.params) (addr size : Nat) :
    memRead addr size s = memRead addr size t := by
  simp only [memRead, hp, regRead_eq_of_view_eq hv hp]

/-- Settles O49: the working registers are no part of the view. -/
theorem hostCannotReadWorkingRegisters : Obligations.HostCannotReadWorkingRegisters :=
  fun _ _ _ _ addr size => memRead_eq_of_view_eq rfl rfl addr size

theorem regWrite_regWrite (g : Reg) (w : Word) (s : State) : regWrite g w (regWrite g w s) = regWrite g w s := by
  cases g with
  | limb b i =>
    simp only [regWrite_limb]
    cases b <;> simp only [writeBank, bankValue, setLimb_setLimb]
  | cmd | status | err | rounds | cap | reserved => rfl

/-- Settles O45: the model's record is no part of the view, and a limb written twice is the same digit. -/
theorem readsAndOperandWritesAreIdempotent : Obligations.ReadsAndOperandWritesAreIdempotent := by
  refine ⟨fun s t addr size h => ?_, regWrite_regWrite⟩
  rcases perform_next h with ⟨_, _, _, hv, -⟩ | ⟨addr', size', hv, hwf, rfl⟩ | ⟨_, hv, -⟩ | ⟨hv, -⟩ | ⟨hv, -⟩ <;> cases hv
  refine ⟨_, rfl, (memRead_eq_of_view_eq rfl rfl addr size).trans (b := memRead addr size s) ?_⟩
  simp only [memRead, busOffset_of_accessWf hwf]

/-! ### The lines of the write map (R44) -/

/-- The low registers: of the aligned offsets below the reserved ones only `ROUNDS` takes a word outside `CMD`. -/
theorem writeReg_low {limbs off : Nat} (s : State) (w : Word) (hal : off % 4 = 0) (h0 : off ≠ 0) (hlow : off < 0x0014) :
    writeReg (regAt limbs off) w s = .next (if off = 0x000C then { s with rounds := w.setWidth 16 } else s) := by
  have hoff : off = 0x0004 ∨ off = 0x0008 ∨ off = 0x000C ∨ off = 0x0010 := by omega
  rcases hoff with rfl | rfl | rfl | rfl <;> rfl

/-- Settles O39: the lines of R44 are those of `regAt`, with the lines whose writes are ignored left out. -/
theorem hostWriteFollowsTheMap : Obligations.HostWriteFollowsTheMap := by
  rintro s off _ w rfl hoff hal
  rw [perform_write_base_add s hoff hal]
  by_cases h0 : off = 0
  · subst h0
    rw [if_pos rfl]
    split
    · rfl
    · next hq => exact writeCommand_busy hq w
  rw [if_neg h0]
  by_cases hlow : off < 0x0014
  · rw [writeReg_low s w hal h0 hlow]
    simp (disch := omega) only [if_neg]
    rfl
  · simp (disch := omega) only [regAt, if_neg, apply_ite (writeReg · w s), apply_ite Host.Outcome.next]
    simp only [writeReg, regWrite, ite_self]

/-! ### ROUNDS and CAP (R22, R23) -/

theorem perform_write_rounds (s : State) (w : Word) :
    perform (.write (s.params.base + 0x000C) 4 w) s = .next { s with rounds := w.setWidth 16 } :=
  perform_write_base_add s (by decide) (by decide) w

theorem memRead_rounds (s : State) : memRead (s.params.base + 0x000C) 4 s = .ok (s.rounds.setWidth 32) :=
  memRead_base_add s (by decide) (by decide)

/-- Bits 15:0, zero-extended, are the word under the mask of 16 bits. -/
theorem setWidth_setWidth_eq_and (w : Word) : (w.setWidth 16).setWidth 32 = w &&& 0x0000FFFF := by
  refine BitVec.eq_of_toNat_eq ?_
  have hmask : (0x0000FFFF : Word).toNat = 2 ^ 16 - 1 := rfl
  rw [BitVec.toNat_and, hmask, Nat.and_two_pow_sub_one_eq_mod]
  simp only [BitVec.toNat_setWidth]
  omega

/-- Settles O43: the write keeps `setWidth 16` of the word, the read extends it, and MRTEST's accept copies it to `RNDLEFT`. -/
theorem roundsKeepsSixteenBits : Obligations.RoundsKeepsSixteenBits := by
  intro s w
  have hbits : w.extractLsb' 0 16 = w.setWidth 16 := (BitVec.setWidth_eq_extractLsb' (by decide)).symm
  rw [hbits]
  refine ⟨_, perform_write_rounds s w, rfl, ?_, fun hq => ⟨_, exec_mrtest_idle hq, rfl⟩⟩
  rw [memRead_rounds, setWidth_setWidth_eq_and]

/-- Settles O44: `L` fits a word, and `CAP` is one of the registers whose writes are ignored. -/
theorem capReadsTheLimbCount : Obligations.CapReadsTheLimbCount := by
  intro s w
  have hmax := limbs_le s.params
  have hmin : 1 ≤ s.params.limbs := Nat.le_add_left 1 _
  have hword : (BitVec.ofNat 32 s.params.limbs).toNat = s.params.limbs := by
    rw [BitVec.toNat_ofNat, Nat.mod_eq_of_lt (by omega)]
  refine ⟨⟨_, memRead_cap s, hword, ?_, ?_, ?_⟩, perform_write_base_add s (by decide) (by decide) w⟩ <;> rw [hword]
  · rfl
  · exact hmin
  · exact hmax

end Sys2Proof.Proofs.Access

/-! PROOFS. The whole-machine rules of 10_state.md sections 3 to 6: what one turn can change, whoever takes it. -/

namespace Sys2Proof.Proofs.Turns

open Sys2Proof Sys2Proof.Machine Sys2Proof.Safety
open Sys2Proof.Proofs.Flags Sys2Proof.Proofs.Encoding Sys2Proof.Proofs.Modexp Sys2Proof.Proofs.Limbs

/-! ### The agenda (R10, R51) -/

/-- Settles O5: a step is the turn of the agenda's first agent, or the sequencer's. -/
theorem stepTakesTheFirstTurn : Obligations.StepTakesTheFirstTurn :=
  ⟨fun _ ha => step_of_agenda_nil ha, fun _ _ _ ha => step_of_agenda_cons ha, fun _ => rfl, fun _ _ => rfl⟩

/-- Settles O4: the turn is a write to offset 0, and the word is the command's own. -/
theorem stepRunsTheDecodedCommand : Obligations.StepRunsTheDecodedCommand := by
  intro s rest w i ha hdec
  rw [step_of_agenda_cons ha, eq_encode_of_decode_eq_command hdec]
  exact (perform_write_cmd (encode i) { s with agenda := rest }).trans (writeCommand_encode i _)

/-- Settles O29: `rngAnswer` looks at `SEQ` first (log 8). -/
theorem answerWithoutRequestIsNotTaken : Obligations.AnswerWithoutRequestIsNotTaken := fun _ _ hq => if_pos hq

/-- Settles O52: the turn is `resetBlock`, whatever the state; the model's own fields stay (log 17). -/
theorem resetTurnClearsTheBlock : Obligations.ResetTurnClearsTheBlock := fun _ _ ha => step_of_agenda_cons ha

/-- All that a step can be when it gives a next state: whose turn it is, and what it does. -/
inductive Taken (s t : State) : Prop where
  | sequencer (l : List Event) (ha : s.agenda = [] ∨ ∃ rest, s.agenda = .seqStep :: rest)
      (ht : t = sequencerStep { s with agenda := l })
  | command (w : Word) (rest : List Event) (ha : s.agenda = .write s.params.base 4 w :: rest)
      (ht : writeCommand w { s with agenda := rest } = .next t)
  | register (addr size : Nat) (w : Word) (rest : List Event) (g : Reg) (ha : s.agenda = .write addr size w :: rest)
      (ht : t = regWrite g w { s with agenda := rest })
  | read (rest : List Event) (ws : List Word) (ht : t = { s with agenda := rest, readWords := ws })
  | answer (v : Nat) (rest : List Event) (ht : rngAnswer v { s with agenda := rest } = .next t)
  | reset (rest : List Event) (ha : s.agenda = .reset :: rest) (ht : t = resetBlock { s with agenda := rest })

section

variable {s t : State} {w : Word}

/-- `CMD` stands at offset 0 only (R41). -/
theorem eq_zero_of_regAt_eq_cmd {limbs off : Nat} (h : regAt limbs off = .cmd) : off = 0 := by
  unfold regAt at h
  split_ifs at h
  assumption

theorem eq_base_of_accessWf {p : Config.Params} {addr size : Nat} (h : accessWf p addr size = true)
    (hcmd : regAt p.limbs (addr - p.base) = .cmd) : addr = p.base ∧ size = 4 := by
  have hoff := eq_zero_of_regAt_eq_cmd hcmd
  simp only [accessWf, Bool.and_eq_true, beq_iff_eq, decide_eq_true_eq] at h
  omega

theorem taken_of_step (h : step s = .next t) : Taken s t := by
  rcases step_next h with ⟨ha, rfl⟩ | ⟨v, rest, ha, hp⟩
  · exact .sequencer s.agenda (.inl ha) rfl
  rcases perform_next hp with ⟨addr, size, w, rfl, hwf, hw⟩ | ⟨addr, size, rfl, -, rfl⟩ | ⟨x, rfl, hv⟩ | ⟨rfl, rfl⟩ | ⟨rfl, rfl⟩
  · by_cases hg : regAt s.params.limbs (addr - s.params.base) = .cmd
    · obtain ⟨rfl, rfl⟩ := eq_base_of_accessWf hwf hg
      rw [hg] at hw
      exact .command w rest ha hw
    · rw [writeReg_of_ne hg] at hw
      cases hw
      exact .register addr size w rest _ ha rfl
  · exact .read rest _ rfl
  · exact .answer x rest hv
  · exact .reset rest ha rfl
  · exact .sequencer rest (.inr ⟨rest, ha⟩) rfl

/-! ### What a command's accept leaves (R66) -/

/-- A word written to `CMD` is dropped, or changes `CMDREG`, the flags, `SEQ` and working registers, and clears `PRIME`. -/
theorem writeCommand_next (h : writeCommand w s = .next t) :
    s.seq ≠ .idle ∧ t = s ∨ s.seq = .idle ∧ ∃ d e q mee miu mrt,
      t = { s with cmdreg := w, done := d, err := e, prime := false, seq := q, mee := mee, miu := miu, mrt := mrt } := by
  by_cases hq : s.seq = .idle
  · refine .inr ⟨hq, ?_⟩
    rw [acceptActsByTheWord w s hq] at h
    split_ifs at h <;> cases h <;> exact ⟨_, _, _, _, _, _, rfl⟩
  · rw [writeCommand_busy hq] at h
    cases h
    exact .inl ⟨hq, rfl⟩

/-- The fields no command writes. -/
theorem writeCommand_frame (h : writeCommand w s = .next t) :
    t.params = s.params ∧ t.a = s.a ∧ t.e = s.e ∧ t.m = s.m ∧ t.r = s.r ∧ t.rounds = s.rounds := by
  rcases writeCommand_next h with ⟨-, rfl⟩ | ⟨-, _, _, _, _, _, _, rfl⟩ <;> exact ⟨rfl, rfl, rfl, rfl, rfl, rfl⟩

/-! ### The host's registers beside a running command (R50, R55) -/

/-- `s` with the registers that only the host writes, and the parameters, taken from `h`. -/
def withHostRegisters (h s : State) : State :=
  { s with params := h.params, a := h.a, e := h.e, m := h.m, rounds := h.rounds }

theorem meeStep_withHostRegisters (h s : State) : meeStep (withHostRegisters h s) = withHostRegisters h (meeStep s) := by
  rcases meeStep_cases s with ⟨hexpr, ht⟩ | ⟨hexpr, hc, ht⟩ | ⟨hexpr, hc, ht⟩ <;> rw [ht]
  · exact if_pos hexpr
  all_goals
    rw [meeStep, show (withHostRegisters h s).mee = s.mee from rfl, if_neg (not_not.mpr hexpr), hc]
    rfl

theorem miuStep_withHostRegisters (h s : State) : miuStep (withHostRegisters h s) = withHostRegisters h (miuStep s) := by
  rcases miuStep_cases s with ⟨hr, ht⟩ | ⟨hr, hg, ht⟩ | ⟨hr, hg, ht⟩ <;> rw [ht]
  · exact if_pos hr
  · exact (if_neg (not_not.mpr hr)).trans (if_pos hg)
  · exact (if_neg (not_not.mpr hr)).trans (if_neg hg)

/-- The sequencer's steps work on the snapshots: they commute with any change of the host's registers. -/
theorem sequencerStep_withHostRegisters (h s : State) :
    sequencerStep (withHostRegisters h s) = withHostRegisters h (sequencerStep s) := by
  have hseq : (withHostRegisters h s).seq = s.seq := rfl
  rw [sequencerStep, sequencerStep, hseq]
  cases hq : s.seq with
  | idle | mrDraw => rfl
  | meLoop => exact meeStep_withHostRegisters h s
  | miLoop => exact miuStep_withHostRegisters h s
  | mrClassify => simp only [mrtClassify, apply_ite (withHostRegisters h)]; rfl
  | mrDecomp => simp only [mrtDecomp, apply_ite (withHostRegisters h)]; rfl
  | mrRound => simp only [mrtRound, apply_ite (withHostRegisters h)]; rfl
  | mrCheck => simp only [mrtCheck, apply_ite (withHostRegisters h)]; rfl
  | mrSquare => simp only [mrtSquare, apply_ite (withHostRegisters h)]; rfl

/-- So a sequencer step leaves those registers. -/
theorem sequencerStep_frame (s : State) :
    (sequencerStep s).params = s.params ∧ (sequencerStep s).a = s.a ∧ (sequencerStep s).e = s.e ∧
      (sequencerStep s).m = s.m ∧ (sequencerStep s).rounds = s.rounds := by
  have hself : sequencerStep s = withHostRegisters s (sequencerStep s) := sequencerStep_withHostRegisters s s
  rw [hself]
  exact ⟨rfl, rfl, rfl, rfl, rfl⟩

theorem regWrite_withHostRegisters (g : Reg) (w : Word) (h s : State) :
    regWrite g w (withHostRegisters h s) = withHostRegisters (regWrite g w h) s := by
  cases g with
  | limb b i => cases b <;> rfl
  | cmd | status | err | rounds | cap | reserved => rfl

/-- Settles O46: a host write is a change of the host's registers, which a step and an answered draw commute with. -/
theorem hostWritesDoNotReachTheRunningCommand : Obligations.HostWritesDoNotReachTheRunningCommand := by
  intro g w s _
  have hwrite : regWrite g w s = withHostRegisters (regWrite g w s) s := regWrite_withHostRegisters g w s s
  refine ⟨?_, fun v t hv => ?_⟩
  · calc sequencerStep (regWrite g w s)
        = withHostRegisters (regWrite g w s) (sequencerStep s) := by rw [hwrite]; exact sequencerStep_withHostRegisters _ s
      _ = regWrite g w (withHostRegisters s (sequencerStep s)) := (regWrite_withHostRegisters g w s _).symm
      _ = regWrite g w (sequencerStep s) := congrArg (regWrite g w) (sequencerStep_withHostRegisters s s).symm
  · rcases rngAnswer_next hv with ⟨hq, rfl⟩ | ⟨hq, hlo, hhi, rfl⟩
    · exact if_pos (by rwa [regWrite_seq])
    · have hdraw : regWrite g w (mrtDraw v s) = mrtDraw v (regWrite g w s) := by
        rw [hwrite]
        exact regWrite_withHostRegisters g w s (mrtDraw v s)
      rw [hdraw]
      exact Mrtest.rngAnswer_of_inRange (by rwa [regWrite_seq]) (by rw [regWrite_mrt]; exact ⟨hlo, hhi⟩)

/-! ### Who writes what (R11 to R16, R22) -/

/-- Settles O56: no turn's rule writes the parameters. -/
theorem parametersNeverChange : Obligations.ParametersNeverChange := by
  intro s t h
  cases taken_of_step h with
  | sequencer l _ ht => rw [ht]; exact (sequencerStep_frame _).1
  | command w rest _ ht => exact (writeCommand_frame ht).1
  | register _ _ w rest g _ ht => rw [ht, regWrite_params]
  | read rest ws ht => rw [ht]
  | answer v rest ht => rcases rngAnswer_next ht with ⟨-, rfl⟩ | ⟨-, -, -, rfl⟩ <;> rfl
  | reset rest _ ht => rw [ht]; rfl

/-- Settles O60: a command's meaning is a write to `CMD`, and neither it nor the sequencer nor an answer writes an operand. -/
theorem operandsAreWrittenOnlyByTheHost : Obligations.OperandsAreWrittenOnlyByTheHost := by
  refine ⟨fun i s => ?_, fun s t h hwrite hreset => ?_⟩
  · obtain ⟨-, ha, he, hm, -, hrounds⟩ := writeCommand_frame ((writeCommand_encode i s).trans (exec_eq i s))
    exact ⟨_, exec_eq i s, ha, he, hm, hrounds⟩
  · cases taken_of_step h with
    | sequencer l _ ht => rw [ht]; exact (sequencerStep_frame _).2
    | command w rest ha => exact absurd ha (hwrite _ _ _ _)
    | register addr size w rest g ha => exact absurd ha (hwrite _ _ _ _)
    | read rest ws ht => rw [ht]; exact ⟨rfl, rfl, rfl, rfl⟩
    | answer v rest ht => rcases rngAnswer_next ht with ⟨-, rfl⟩ | ⟨-, -, -, rfl⟩ <;> exact ⟨rfl, rfl, rfl, rfl⟩
    | reset rest ha => exact absurd ha (hreset rest)

/-- Of the sequencer's steps only the two success ends write `R` (R99, R114). -/
theorem sequencerStep_r_ne (h : (sequencerStep s).r ≠ s.r) :
    ((sequencerStep s).done = true ∧ (sequencerStep s).err = s.err ∧ (sequencerStep s).seq = .idle) ∧
      (s.seq = .meLoop ∧ s.mee.caller = .host ∧ s.mee.expr = 0 ∨ s.seq = .miLoop ∧ s.miu.r1 = 0 ∧ s.miu.r0 = 1) := by
  rcases sequencerStep_cases s with ⟨-, ht⟩ | ⟨hq, ht⟩ | ⟨hq, ht⟩ | ⟨-, ht⟩ | ⟨-, ht⟩ | ⟨-, ht⟩ | ⟨-, ht⟩ | ⟨-, ht⟩ <;>
    rw [ht] at h ⊢
  · exact absurd rfl h
  · rcases meeStep_cases s with ⟨-, hs⟩ | ⟨hexpr, hc, hs⟩ | ⟨-, -, hs⟩ <;> rw [hs] at h ⊢
    · exact absurd rfl h
    · exact ⟨⟨rfl, rfl, rfl⟩, .inl ⟨hq, hc, hexpr⟩⟩
    · exact absurd rfl h
  · rcases miuStep_cases s with ⟨-, hs⟩ | ⟨hr, hg, hs⟩ | ⟨-, -, hs⟩ <;> rw [hs] at h ⊢
    · exact absurd rfl h
    · exact ⟨⟨rfl, rfl, rfl⟩, .inr ⟨hq, hr, hg⟩⟩
    · exact absurd rfl h
  · rcases mrtClassify_cases s with ⟨b, hs, -⟩ | ⟨-, -, hs⟩ <;> exact absurd (by simp [hs]) h
  · rcases mrtDecomp_cases s with ⟨-, hs⟩ | ⟨-, hs⟩ <;> exact absurd (by simp [hs]) h
  · rcases mrtRound_cases s with ⟨-, hs⟩ | ⟨-, hs⟩ <;> exact absurd (by simp [hs]) h
  · rcases mrtCheck_cases s with ⟨-, hs⟩ | ⟨-, hs⟩ <;> exact absurd (by simp [hs]) h
  · rcases mrtSquare_cases s with ⟨-, hs⟩ | ⟨-, t, rfl, ⟨-, hs⟩ | ⟨-, hs⟩⟩ <;> exact absurd (by simp [hs]) h

/-- Settles O58: no turn but the sequencer's and a reset writes `R`. -/
theorem resultIsWrittenOnlyBySuccess : Obligations.ResultIsWrittenOnlyBySuccess := by
  intro s t h hr
  cases taken_of_step h with
  | sequencer l ha ht =>
    subst ht
    obtain ⟨⟨hdone, herr, hidle⟩, hend⟩ := sequencerStep_r_ne (s := { s with agenda := l }) hr
    exact .inr ⟨ha, hdone, herr, hidle, hend⟩
  | command w rest _ ht =>
    obtain ⟨-, -, -, -, hsame, -⟩ := writeCommand_frame ht
    exact absurd hsame hr
  | register _ _ w rest g _ ht => exact absurd (by rw [ht, regWrite_r]) hr
  | read rest ws ht => exact absurd (by rw [ht]) hr
  | answer v rest ht => rcases rngAnswer_next ht with ⟨-, rfl⟩ | ⟨-, -, -, rfl⟩ <;> exact absurd rfl hr
  | reset rest ha => exact .inl ⟨rest, ha⟩

/-- Of the sequencer's steps only the tester's completions write `PRIME` (R134). -/
theorem sequencerStep_prime_ne (h : (sequencerStep s).prime ≠ s.prime) :
    ∃ b, sequencerStep s = completeWithPrime b s ∧
      (b = true ∧ (s.seq = .mrClassify ∧ (s.mrt.nc = 2 ∨ s.mrt.nc = 3) ∨ s.seq = .mrRound ∧ s.mrt.rndleft = 0) ∨
        b = false ∧ (s.seq = .mrClassify ∨ s.seq = .mrSquare)) := by
  rcases sequencerStep_cases s with ⟨-, ht⟩ | ⟨-, ht⟩ | ⟨-, ht⟩ | ⟨hq, ht⟩ | ⟨-, ht⟩ | ⟨hq, ht⟩ | ⟨-, ht⟩ | ⟨hq, ht⟩ <;>
    rw [ht] at h ⊢
  · exact absurd rfl h
  · rcases meeStep_cases s with ⟨-, hs⟩ | ⟨-, -, hs⟩ | ⟨-, -, hs⟩ <;> exact absurd (by simp [hs]) h
  · rcases miuStep_cases s with ⟨-, hs⟩ | ⟨-, -, hs⟩ | ⟨-, -, hs⟩ <;> exact absurd (by simp [hs]) h
  · rcases mrtClassify_cases s with ⟨b, hs, ⟨rfl, hn⟩ | ⟨rfl, -⟩⟩ | ⟨-, -, hs⟩
    · exact ⟨true, hs, .inl ⟨rfl, .inl ⟨hq, hn⟩⟩⟩
    · exact ⟨false, hs, .inr ⟨rfl, .inl hq⟩⟩
    · exact absurd (by rw [hs]) h
  · rcases mrtDecomp_cases s with ⟨-, hs⟩ | ⟨-, hs⟩ <;> exact absurd (by rw [hs]) h
  · rcases mrtRound_cases s with ⟨hleft, hs⟩ | ⟨-, hs⟩
    · exact ⟨true, hs, .inl ⟨rfl, .inr ⟨hq, hleft⟩⟩⟩
    · exact absurd (by rw [hs]) h
  · rcases mrtCheck_cases s with ⟨-, hs⟩ | ⟨-, hs⟩ <;> exact absurd (by simp [hs]) h
  · rcases mrtSquare_cases s with ⟨-, hs⟩ | ⟨-, t, rfl, ⟨-, hs⟩ | ⟨-, hs⟩⟩
    · exact ⟨false, hs, .inr ⟨rfl, .inr hq⟩⟩
    · exact absurd (by rw [hs]; rfl) h
    · exact absurd (by rw [hs]) h

/-- Settles O59: an accept and a reset clear `PRIME`, the tester's completions write it, and nothing else does. -/
theorem primeIsWrittenOnlyByTheTester : Obligations.PrimeIsWrittenOnlyByTheTester := by
  intro s t h hp
  cases taken_of_step h with
  | sequencer l _ ht =>
    subst ht
    obtain ⟨b, hs, hwhy⟩ := sequencerStep_prime_ne (s := { s with agenda := l }) hp
    rw [hs]
    rcases hwhy with ⟨rfl, hwhy⟩ | ⟨rfl, hq⟩
    · exact ⟨fun _ => ⟨hwhy, rfl, rfl, rfl⟩, nofun⟩
    · exact ⟨nofun, fun _ => .inr (.inr hq)⟩
  | command w rest ha ht =>
    rcases writeCommand_next ht with ⟨-, rfl⟩ | ⟨hq, _, _, _, _, _, _, rfl⟩
    · exact absurd rfl hp
    · exact ⟨nofun, fun _ => .inl ⟨w, rest, ha, hq⟩⟩
  | register _ _ w rest g _ ht => exact absurd (by rw [ht, regWrite_prime]) hp
  | read rest ws ht => exact absurd (by rw [ht]) hp
  | answer v rest ht => rcases rngAnswer_next ht with ⟨-, rfl⟩ | ⟨-, -, -, rfl⟩ <;> exact absurd rfl hp
  | reset rest ha ht => subst ht; exact ⟨nofun, fun _ => .inr (.inl ⟨rest, ha⟩)⟩

/-! ### The transition table (R25) -/

/-- Only a command's word takes an idle sequencer out of `IDLE`, and to the first state of its command (R66). -/
theorem writeCommand_leaves_idle (hq : s.seq = .idle) (h : writeCommand w s = .next t) (ht : t.seq ≠ .idle) :
    w = 1 ∧ s.m ≠ 0 ∧ t.seq = .meLoop ∨ w = 2 ∧ s.m ≠ 0 ∧ t.seq = .miLoop ∨ w = 3 ∧ t.seq = .mrClassify := by
  rw [acceptActsByTheWord w s hq] at h
  split_ifs at h with h1 hm h2 hm h3 <;> cases h
  · exact absurd hq ht
  · exact .inl ⟨h1, hm, rfl⟩
  · exact absurd hq ht
  · exact .inr (.inl ⟨h2, hm, rfl⟩)
  · exact .inr (.inr ⟨h3, rfl⟩)
  · exact absurd hq ht

theorem sequencerStep_mem_seqEdges (hidle : s.seq ≠ .idle) (hdraw : s.seq ≠ .mrDraw) :
    (sequencerStep s).seq ∈ seqEdges s.seq s.mee.caller := by
  rcases sequencerStep_cases s with ⟨hq, -⟩ | ⟨hq, ht⟩ | ⟨hq, ht⟩ | ⟨hq, ht⟩ | ⟨hq, ht⟩ | ⟨hq, ht⟩ | ⟨hq, ht⟩ | ⟨hq, ht⟩
  · exact absurd hq (not_or.mpr ⟨hidle, hdraw⟩)
  all_goals rw [ht]
  · rcases meeStep_cases s with ⟨-, hs⟩ | ⟨-, hc, hs⟩ | ⟨-, hc, hs⟩ <;> rw [hs]
    · cases hc : s.mee.caller <;> simp [hq, seqEdges]
    · simp [hq, hc, seqEdges]
    · simp [hq, hc, seqEdges]
  · rcases miuStep_cases s with ⟨-, hs⟩ | ⟨-, -, hs⟩ | ⟨-, -, hs⟩ <;> simp [hs, hq, seqEdges]
  · rcases mrtClassify_cases s with ⟨b, hs, -⟩ | ⟨-, -, hs⟩ <;> simp [hs, hq, seqEdges]
  · rcases mrtDecomp_cases s with ⟨-, hs⟩ | ⟨-, hs⟩ <;> simp [hs, hq, seqEdges]
  · rcases mrtRound_cases s with ⟨-, hs⟩ | ⟨-, hs⟩ <;> simp [hs, hq, seqEdges]
  · rcases mrtCheck_cases s with ⟨-, hs⟩ | ⟨-, hs⟩ <;> simp [hs, hq, seqEdges]
  · rcases mrtSquare_cases s with ⟨-, hs⟩ | ⟨-, t, rfl, ⟨-, hs⟩ | ⟨-, hs⟩⟩ <;> simp [hs, hq, seqEdges]

theorem step_leaves_idle (h : step s = .next t) (hq : s.seq = .idle) (ht : t.seq ≠ .idle) :
    ∃ w rest, s.agenda = .write s.params.base 4 w :: rest ∧ writeCommand w { s with agenda := rest } = .next t := by
  cases taken_of_step h with
  | sequencer l _ hs => exact absurd (by rw [hs, sequencerStep_idle (s := { s with agenda := l }) hq, hq]) ht
  | command w rest ha hw => exact ⟨w, rest, ha, hw⟩
  | register _ _ w rest g _ hs => exact absurd (by rw [hs, regWrite_seq, hq]) ht
  | read rest ws hs => exact absurd (by rw [hs, hq]) ht
  | answer v rest hs =>
    rcases rngAnswer_next hs with ⟨-, rfl⟩ | ⟨hdraw, -⟩
    · exact absurd hq ht
    · exact nomatch hq.symm.trans hdraw
  | reset rest _ hs => exact absurd (by rw [hs]; rfl) ht

/-- While a command runs `SEQ` changes by a transition of the table or by a reset. -/
theorem step_busy_mem_seqEdges (h : step s = .next t) (hq : s.seq ≠ .idle) (hne : t.seq ≠ s.seq) :
    t.seq ∈ seqEdges s.seq s.mee.caller ∨ ∃ rest, s.agenda = .reset :: rest := by
  cases taken_of_step h with
  | sequencer l _ hs =>
    subst hs
    by_cases hdraw : s.seq = .mrDraw
    · exact absurd (by rw [sequencerStep_mrDraw (s := { s with agenda := l }) hdraw]) hne
    · exact .inl (sequencerStep_mem_seqEdges (s := { s with agenda := l }) hq hdraw)
  | command w rest _ hw =>
    rw [writeCommand_busy (s := { s with agenda := rest }) hq] at hw
    cases hw
    exact absurd rfl hne
  | register _ _ w rest g _ hs => exact absurd (by rw [hs, regWrite_seq]) hne
  | read rest ws hs => exact absurd (by rw [hs]) hne
  | answer v rest hs =>
    rcases rngAnswer_next hs with ⟨-, rfl⟩ | ⟨hdraw, -, -, rfl⟩
    · exact absurd rfl hne
    · have hdraw : s.seq = .mrDraw := hdraw
      exact .inl (by simp [hdraw, seqEdges])
  | reset rest ha => exact .inr ⟨rest, ha⟩

/-- Settles O57: the accept leaves `IDLE`, the sequencer and the answered draw follow the table, and no other turn moves `SEQ`. -/
theorem sequencerFollowsTheTransitionTable : Obligations.SequencerFollowsTheTransitionTable := by
  refine ⟨fun s t h hq ht => ?_, fun s => sequencerStep_mem_seqEdges, fun s t v hq hv => ?_, fun s t => step_busy_mem_seqEdges⟩
  · obtain ⟨w, rest, ha, hw⟩ := step_leaves_idle h hq ht
    exact ⟨w, rest, ha, writeCommand_leaves_idle (s := { s with agenda := rest }) hq hw ht⟩
  · rcases rngAnswer_next hv with ⟨hne, -⟩ | ⟨-, -, -, rfl⟩
    · exact absurd hq hne
    · exact ⟨rfl, rfl⟩

/-! ### The words of STATUS (R28) -/

/-- Settles O37: a running command shows BUSY alone, a completed one DONE with at most one of ERRF and PRIME. -/
theorem reachableStatusWords : Obligations.ReachableStatusWords := by
  intro s h
  by_cases hq : s.seq = .idle
  · obtain ⟨⟨-, herr, hprime, hfresh⟩, -, -⟩ := h
    have hbusy : busy s = false := by simp [busy, hq]
    cases hd : s.done with
    | false =>
      obtain ⟨he, hp, -⟩ := hfresh hbusy hd
      simp [statusWord, hbusy, hd, errf, he, hp]
    | true =>
      cases hp : s.prime with
      | true =>
        obtain ⟨-, he, -⟩ := hprime hp
        simp [statusWord, hbusy, hd, errf, he, hp]
      | false => cases he : errf s <;> simp [statusWord, hbusy, hd, he, hp]
  · obtain ⟨i, hrun⟩ := running_of_visibleConsistent h hq
    have hbusy : busy s = true := by simp [busy, hq]
    simp [statusWord, hbusy, errf, hrun.notDone, hrun.noError, hrun.notPrime]

end

end Sys2Proof.Proofs.Turns
